-- ==== Sys2Proof/Word.lean ====
section
/-! DEFINITION. The fixed widths of the FCE's values (00_scope.md rule R9). -/

namespace Sys2Proof

/-- One buffer byte. -/
abbrev Byte := BitVec 8

/-- A 16-bit value: a port, a buffer length held in a register, a checksum (R9). -/
abbrev Half := BitVec 16

/-- A 32-bit register, IP address or TCP number (R9). -/
abbrev Word := BitVec 32

/-- A 48-bit MAC address, its first byte on the wire in bits 47:40 (R9, 10_state.md R28). -/
abbrev Mac := BitVec 48

end Sys2Proof
end

