-- ==== Sys2Proof/Config.lean ====
section
/-! DEFINITION. What an implementation fixes (00_scope.md rule R8), the protocol constants
(30_encoding.md rule R116), and the free values: what the buffers hold after a reset
(70_reset_and_hazards.md rule R271). -/

namespace Sys2Proof

/-- The two byte buffers (10_state.md R39); also the values of `BSEL` (30_encoding.md R91). -/
inductive Buf where
  | tx
  | rx
deriving DecidableEq, Repr

/-- The implementation parameters of R8. They are plain data carried in `State.params`, so that a
statement about every state is a statement about every configuration (log 5). -/
structure Params where
  /-- `BUF_BYTES`, the size in bytes of each buffer. -/
  bufBytes : Nat
  /-- `NSOCK`, the entries of the port-match table. -/
  nsock : Nat
  /-- `DATA_CHAN`, the channel tag of a data frame. -/
  dataChan : BitVec 8
  /-- `CODEC_BASE`, the host address of register offset 0. -/
  codecBase : Nat
deriving DecidableEq, Repr

/-- The legal ranges of R8. `DATA_CHAN` is 0 to 255 by its type; `CODEC_BASE` has no range. -/
def Params.legal (p : Params) : Bool :=
  decide (64 ≤ p.bufBytes ∧ p.bufBytes ≤ 65535 ∧ 1 ≤ p.nsock ∧ p.nsock ≤ 8)

/-- The defaults of R8. DESIGN CHOICE (log 6), unsafe: `CODEC_BASE` is OPEN in the spec; the
machine of `State.reset` has it at 0. -/
def Config.defaultParams : Params :=
  { bufBytes := 2048, nsock := 5, dataChan := 2#8, codecBase := 0 }

/-- FREE VALUE (log 3): what byte `off` of a buffer holds after the `epoch`-th reset, until the
host or a command writes it: "a model gives each byte an arbitrary value" (R271). It has no body,
so a statement proved of the model holds whatever it is. -/
opaque Config.resetByte (epoch : Nat) (b : Buf) (off : Nat) : Byte

/-- `MIN_FRAME`, the fixed admission minimum: Ethernet 14 + ARP 28 (R8, R116). -/
def Config.minFrame : Nat := 42

/-- `ETYPE_IPV4` (R116). -/
def Config.etypeIpv4 : Half := 0x0800#16

/-- `PROTO_ICMP` (R116). -/
def Config.protoIcmp : Byte := 1#8

/-- `PROTO_TCP` (R116). -/
def Config.protoTcp : Byte := 6#8

/-- `PROTO_UDP` (R116). -/
def Config.protoUdp : Byte := 17#8

end Sys2Proof
end

