-- ==== Sys2Proof/Syntax.lean ====
section
/-! DEFINITION. The commands of the FCE, one constructor per row of spec/opcode_table.json
(30_encoding.md rule R93). Operands that are not in the command word come from the argument
registers and are read by the meanings (rule R96). -/

namespace Sys2Proof

/-- `MODE` of `SOCK_CLEAR` (R91): back to the listen template, or free the entry. -/
inductive ClearMode where
  | template
  | free
deriving DecidableEq, Repr

/-- The thirteen commands (R93). `off` is the `OFF` field, an unscaled byte offset, and `slot` the
`SLOT` field (R95); `WellFormed` bounds them by their widths. -/
inductive Instr where
  | nop
  | ethAdd (off : Nat)
  | ipAdd (off : Nat)
  | udpAdd (off : Nat)
  | tcpAdd (off : Nat)
  | csum (off : Nat) (buf : Buf)
  | parse
  | ipCheck
  | udpVerify
  | tcpVerify
  | dispatch
  | sockAlloc
  | sockClear (slot : Nat) (mode : ClearMode)
deriving DecidableEq, Repr

end Sys2Proof
end

