-- ==== Sys2Proof/WellFormed.lean ====
section
/-! DEFINITION. Which commands a command word can carry (30_encoding.md rules R91 and R95). -/

namespace Sys2Proof

/-- `OFF` is 16 bits: 0 to 65535 (R95). -/
def offFits (off : Nat) : Bool := decide (off < 65536)

/-- `SLOT` is 3 bits: 0 to 7 (R95). Whether the table has that entry is the command's own test (R221). -/
def slotFits (slot : Nat) : Bool := decide (slot < 8)

/-- A command is well formed when each immediate fits its field of the command word. -/
def WellFormed : Instr → Bool
  | .nop => true
  | .ethAdd off => offFits off
  | .ipAdd off => offFits off
  | .udpAdd off => offFits off
  | .tcpAdd off => offFits off
  | .csum off _ => offFits off
  | .parse => true
  | .ipCheck => true
  | .udpVerify => true
  | .tcpVerify => true
  | .dispatch => true
  | .sockAlloc => true
  | .sockClear slot _ => slotFits slot

end Sys2Proof
end

