-- ==== Sys2Proof/Decode.lean ====
section
/-! DEFINITION. The command word: its fields (30_encoding.md rule R91), the decoder (rules R90, R92,
R93, R94), and the encoder written from the same table (rule R99). -/

namespace Sys2Proof

/-- Why a word is no command: R90 step 1 (`E_ILLEGAL`) or step 2 (`E_RESERVED`). Both are errors
the engine reports in `STATUS`; neither stops the machine (60_exceptions.md R240). -/
inductive DecodeError where
  | illegal
  | reserved
deriving DecidableEq, Repr

/-- The assigned opcodes (R93). -/
inductive Opcode where
  | nop
  | ethAdd
  | ipAdd
  | udpAdd
  | tcpAdd
  | csum
  | parse
  | ipCheck
  | udpVerify
  | tcpVerify
  | dispatch
  | sockAlloc
  | sockClear
deriving DecidableEq, Repr

/-- `OPCODE`, bits 7:0 (R91). -/
def opcodeField (w : Word) : BitVec 8 := w.extractLsb' 0 8

/-- `BSEL`, bit 8 (R91). -/
def bselField (w : Word) : BitVec 1 := w.extractLsb' 8 1

/-- `MODE`, bit 9 (R91). -/
def modeField (w : Word) : BitVec 1 := w.extractLsb' 9 1

/-- `SLOT`, bits 12:10 (R91). -/
def slotField (w : Word) : BitVec 3 := w.extractLsb' 10 3

/-- `RSV`, bits 15:13 (R91). -/
def rsvField (w : Word) : BitVec 3 := w.extractLsb' 13 3

/-- `OFF`, bits 31:16 (R91). -/
def offField (w : Word) : BitVec 16 := w.extractLsb' 16 16

/-- The command word with the given fields and `RSV` zero (R91, R99). -/
def packWord (op : BitVec 8) (bsel mode : BitVec 1) (slot : BitVec 3) (off : BitVec 16) : Word :=
  off ++ (0#3) ++ slot ++ mode ++ bsel ++ op

/-- The `OPCODE` value of each command (R93). -/
def opcodeCode : Opcode → BitVec 8
  | .nop => 0x00#8
  | .ethAdd => 0x01#8
  | .ipAdd => 0x02#8
  | .udpAdd => 0x03#8
  | .tcpAdd => 0x04#8
  | .csum => 0x08#8
  | .parse => 0x10#8
  | .ipCheck => 0x11#8
  | .udpVerify => 0x12#8
  | .tcpVerify => 0x13#8
  | .dispatch => 0x20#8
  | .sockAlloc => 0x30#8
  | .sockClear => 0x31#8

/-- Every assigned opcode, in the table's order (R93). -/
def allOpcodes : List Opcode :=
  [.nop, .ethAdd, .ipAdd, .udpAdd, .tcpAdd, .csum, .parse, .ipCheck, .udpVerify, .tcpVerify,
    .dispatch, .sockAlloc, .sockClear]

/-- The opcode a byte selects, none for the illegal space of R94. -/
def opcodeOf (b : BitVec 8) : Option Opcode :=
  allOpcodes.find? (fun op => opcodeCode op == b)

/-- The commands that use `OFF` (R92). -/
def usesOff : Opcode → Bool
  | .ethAdd | .ipAdd | .udpAdd | .tcpAdd | .csum => true
  | .nop | .parse | .ipCheck | .udpVerify | .tcpVerify | .dispatch | .sockAlloc | .sockClear => false

/-- The commands that use `BSEL` (R92). -/
def usesBsel : Opcode → Bool
  | .csum => true
  | .nop | .ethAdd | .ipAdd | .udpAdd | .tcpAdd | .parse | .ipCheck | .udpVerify | .tcpVerify
  | .dispatch | .sockAlloc | .sockClear => false

/-- The commands that use `MODE` and `SLOT` (R92). -/
def usesSlot : Opcode → Bool
  | .sockClear => true
  | .nop | .ethAdd | .ipAdd | .udpAdd | .tcpAdd | .csum | .parse | .ipCheck | .udpVerify
  | .tcpVerify | .dispatch | .sockAlloc => false

/-- `RSV` is zero and every field the opcode does not use is zero (R92). -/
def unusedFieldsZero (op : Opcode) (w : Word) : Bool :=
  (rsvField w == 0#3)
    && (usesOff op || offField w == 0#16)
    && (usesBsel op || bselField w == 0#1)
    && (usesSlot op || (modeField w == 0#1 && slotField w == 0#3))

/-- `BSEL` 0 selects `TXBUF`, 1 `RXBUF` (R91). -/
def bufOf (b : BitVec 1) : Buf := if b = 0#1 then .tx else .rx

/-- The `BSEL` bit of a buffer (R91). -/
def bufBit : Buf → BitVec 1
  | .tx => 0#1
  | .rx => 1#1

/-- `MODE` 0 is the listen template, 1 frees the entry (R91). -/
def clearModeOf (b : BitVec 1) : ClearMode := if b = 0#1 then .template else .free

/-- The `MODE` bit of a clear mode (R91). -/
def clearModeBit : ClearMode → BitVec 1
  | .template => 0#1
  | .free => 1#1

/-- The command a word of this opcode carries, its immediates zero-extended (R95). -/
def buildInstr (op : Opcode) (w : Word) : Instr :=
  match op with
  | .nop => .nop
  | .ethAdd => .ethAdd (offField w).toNat
  | .ipAdd => .ipAdd (offField w).toNat
  | .udpAdd => .udpAdd (offField w).toNat
  | .tcpAdd => .tcpAdd (offField w).toNat
  | .csum => .csum (offField w).toNat (bufOf (bselField w))
  | .parse => .parse
  | .ipCheck => .ipCheck
  | .udpVerify => .udpVerify
  | .tcpVerify => .tcpVerify
  | .dispatch => .dispatch
  | .sockAlloc => .sockAlloc
  | .sockClear => .sockClear (slotField w).toNat (clearModeOf (modeField w))

/-- The opcode of a command (R93). -/
def opcodeOfInstr : Instr → Opcode
  | .nop => .nop
  | .ethAdd _ => .ethAdd
  | .ipAdd _ => .ipAdd
  | .udpAdd _ => .udpAdd
  | .tcpAdd _ => .tcpAdd
  | .csum _ _ => .csum
  | .parse => .parse
  | .ipCheck => .ipCheck
  | .udpVerify => .udpVerify
  | .tcpVerify => .tcpVerify
  | .dispatch => .dispatch
  | .sockAlloc => .sockAlloc
  | .sockClear _ _ => .sockClear

/-- The decoder, in the order of R90: the opcode, then the fields that must be zero, then the
command. It is total: every word is a command or one of two named errors. -/
def decode (w : Word) : Except DecodeError Instr :=
  match opcodeOf (opcodeField w) with
  | none => .error .illegal
  | some op => if unusedFieldsZero op w then .ok (buildInstr op w) else .error .reserved

/-- The encoder: `match OR (off << 16) OR (slot << 10) OR (mode << 9) OR (bsel << 8)` (R99). -/
def encode : Instr → Word
  | .nop => packWord (opcodeCode .nop) 0#1 0#1 0#3 0#16
  | .ethAdd off => packWord (opcodeCode .ethAdd) 0#1 0#1 0#3 (BitVec.ofNat 16 off)
  | .ipAdd off => packWord (opcodeCode .ipAdd) 0#1 0#1 0#3 (BitVec.ofNat 16 off)
  | .udpAdd off => packWord (opcodeCode .udpAdd) 0#1 0#1 0#3 (BitVec.ofNat 16 off)
  | .tcpAdd off => packWord (opcodeCode .tcpAdd) 0#1 0#1 0#3 (BitVec.ofNat 16 off)
  | .csum off buf => packWord (opcodeCode .csum) (bufBit buf) 0#1 0#3 (BitVec.ofNat 16 off)
  | .parse => packWord (opcodeCode .parse) 0#1 0#1 0#3 0#16
  | .ipCheck => packWord (opcodeCode .ipCheck) 0#1 0#1 0#3 0#16
  | .udpVerify => packWord (opcodeCode .udpVerify) 0#1 0#1 0#3 0#16
  | .tcpVerify => packWord (opcodeCode .tcpVerify) 0#1 0#1 0#3 0#16
  | .dispatch => packWord (opcodeCode .dispatch) 0#1 0#1 0#3 0#16
  | .sockAlloc => packWord (opcodeCode .sockAlloc) 0#1 0#1 0#3 0#16
  | .sockClear slot mode =>
    packWord (opcodeCode .sockClear) 0#1 (clearModeBit mode) (BitVec.ofNat 3 slot) 0#16

/-- The 32-bit command word of `nbits` table bits with value `w`: the bits above `nbits` are 0
(log 15). -/
def tableWord (nbits w : Nat) : Word := BitVec.ofNat 32 (w % 2 ^ nbits)

/-- What the decoder reads from a word of spec/opcode_table.json. A command word is one 32-bit
value written to `CMD` (R90), so no byte order enters (log 15). -/
def decodeTableWord (nbits w : Nat) : Option Instr :=
  match decode (tableWord nbits w) with
  | .ok i => some i
  | .error _ => none

end Sys2Proof
end

