-- ==== Sys2Proof/Machine/State.lean ====
section
/-! DEFINITION. The state of the FCE as plain data (10_state.md), the host's pending accesses, the
reasons a step can stop, and the state after reset (70_reset_and_hazards.md rule R270). -/

namespace Sys2Proof.Machine

open Sys2Proof

/-! ## Codes -/

/-- The values of `STATUS.ERRCODE` (60_exceptions.md R241). Codes 0x07 to 0xFF are never written and
are not representable (93_implementation_defined.md I10, log 10). -/
inductive ErrCode where
  | ok
  | illegal
  | reserved
  | range
  | length
  | arg
  | slot
deriving DecidableEq, Repr

/-- The values of `VERDICT.CLASS` (10_state.md R26); 8 to 255 are never written (I10, log 10). -/
inductive FrameClass where
  | none
  | drop
  | notIp
  | icmp
  | udp
  | tcp
  | udpNoMatch
  | tcpNoMatch
deriving DecidableEq, Repr

/-- The values of `VERDICT.REASON` (10_state.md R26); 11 to 255 are never written (I10, log 10). -/
inductive Reason where
  | none
  | chan
  | short
  | mac
  | etype
  | ipdst
  | tlen
  | proto
  | l4hdr
  | l4csum
  | ipcsum
deriving DecidableEq, Repr

/-! ## Registers with fields -/

/-- `STATUS` (10_state.md R24). -/
structure Status where
  errcode : ErrCode
  sticky : Bool
deriving DecidableEq, Repr

/-- `VERDICT` (10_state.md R26). `slot` is 0xFF when no slot matched. -/
structure Verdict where
  cls : FrameClass
  slot : BitVec 8
  reason : Reason
deriving DecidableEq, Repr

/-- `CTRL` (10_state.md R27). -/
structure Ctrl where
  l4csumEn : Bool
  ipcsumEn : Bool
deriving DecidableEq, Repr

/-- The parse record `P` and the `PR_*` registers that hold it (10_state.md R35,
42_parse_validate.md R182). The five Booleans are `PR_VALID` bits 0 to 4; a MAC is the pair of its
`_HI` and `_LO` registers. -/
structure ParseRecord where
  l2 : Bool
  l3 : Bool
  udp : Bool
  tcp : Bool
  icmp : Bool
  edst : Mac
  esrc : Mac
  etype : Half
  ipw0 : Word
  ipw1 : Word
  ipw2 : Word
  sip : Word
  dip : Word
  ports : Word
  udpw : Word
  tseq : Word
  tack : Word
  tw3 : Word
  tw4 : Word
  data : Word
deriving DecidableEq, Repr

/-- All fields 0: what R182 starts from and what reset leaves. -/
def ParseRecord.empty : ParseRecord :=
  { l2 := false, l3 := false, udp := false, tcp := false, icmp := false, edst := 0#48,
    esrc := 0#48, etype := 0#16, ipw0 := 0#32, ipw1 := 0#32, ipw2 := 0#32, sip := 0#32,
    dip := 0#32, ports := 0#32, udpw := 0#32, tseq := 0#32, tack := 0#32, tw3 := 0#32,
    tw4 := 0#32, data := 0#32 }

/-- `KIND` of a port-table entry: 0 datagram (UDP), 1 stream (TCP) (10_state.md R37). -/
inductive SockKind where
  | datagram
  | stream
deriving DecidableEq, Repr

/-- One entry of the port-match table (10_state.md R37). `RMAC` is `rmacHi ++ rmacLo`. -/
structure Sock where
  lport : Half
  kind : SockKind
  rbound : Bool
  rxpend : Bool
  rport : Half
  rip : Word
  rmacHi : Word
  rmacLo : Half
  rxoff : Half
  rxlen : Half
deriving DecidableEq, Repr

/-- All fields 0: an unused entry (10_state.md R37, R38). -/
def Sock.empty : Sock :=
  { lport := 0#16, kind := .datagram, rbound := false, rxpend := false, rport := 0#16,
    rip := 0#32, rmacHi := 0#32, rmacLo := 0#16, rxoff := 0#16, rxlen := 0#16 }

/-! ## Buffers -/

/-- The bytes of one buffer that something has written since the last reset, keyed by byte offset.
An offset that is not listed has no written value; it reads as the free value of R271
(`Config.resetByte`, through `bufByte` in Ops.lean). -/
structure Memory where
  cells : List Host.Cell
deriving DecidableEq, Repr

/-- The canonical form: offsets strictly rising. An unlisted offset stands for "not written", which
no listed byte equals, so equal contents are equal data (log 3). -/
abbrev Memory.wf (m : Memory) : Prop := m.cells.Pairwise (fun x y => x.1 < y.1)

/-- Nothing written. -/
def Memory.empty : Memory := { cells := [] }

/-! ## The host side -/

/-- The widths of a host access (20_memory.md R67). -/
inductive Width where
  | byte
  | half
  | word
deriving DecidableEq, Repr

/-- One host access at an absolute host address (20_memory.md R60). Of `data` only the low bits of
the width are written. -/
inductive Access where
  | read (addr : Nat) (width : Width)
  | write (addr : Nat) (width : Width) (data : Word)
deriving DecidableEq, Repr

/-- What the outside world does to the FCE between two steps (log 1): an access by its one host, a
platform reset (70_reset_and_hazards.md R270), or an access by a second host, which is outside the
spec (60_exceptions.md R249). -/
inductive Event where
  | access (a : Access)
  | reset
  | otherHost (a : Access)
deriving DecidableEq, Repr

/-! ## Why a step stops -/

/-- A step of the machine that cannot happen. -/
inductive Fault where
  /-- Raised by `performAccess` for a host access outside the 0x30000 bytes that the FCE presents
  from `CODEC_BASE` (20_memory.md R60): the spec gives the FCE no such address (log 7). Safe. -/
  | outsideAddressSpace
deriving DecidableEq, Repr

/-- What the spec says a model refuses. -/
inductive Refusal where
  /-- A command with no meaning yet; `exec` has no such arm. Safe. -/
  | notModelled (mnemonic : String)
  /-- Raised by `performAccess`: an 8- or 16-bit access, or an access at an offset that is not a
  multiple of 4, in register space (20_memory.md R67, 93_implementation_defined.md I1). Safe. -/
  | subWordRegisterAccess
  /-- Raised by `performAccess`: a 16- or 32-bit window access that is not naturally aligned
  (20_memory.md R67, 93_implementation_defined.md I2). Safe. -/
  | misalignedWindowAccess
  /-- Raised by `performEvent`: a second host (60_exceptions.md R249,
  93_implementation_defined.md I11). Safe. -/
  | secondHost
deriving DecidableEq, Repr

/-! ## The state -/

/-- Everything the FCE holds (10_state.md R42), its parameters (00_scope.md R8), and the model's own
fields `epoch`, `pending` and `readData` (logs 3, 1 and 14). -/
structure State where
  /-- The implementation parameters; no step changes them. -/
  params : Params
  /-- `CMD`, the last command word written (R23). -/
  cmd : Word
  status : Status
  /-- `RESULT` (R25). -/
  result : Word
  verdict : Verdict
  ctrl : Ctrl
  a0 : Word
  a1 : Word
  a2 : Word
  a3 : Word
  a4 : Word
  a5 : Word
  macHi : Word
  macLo : Half
  ipAddr : Word
  ipIdent : Half
  ipTtl : Byte
  tcpMss : Half
  rxLen : Half
  rxChan : BitVec 8
  /-- The `PR_*` registers. -/
  pr : ParseRecord
  /-- The port-match table, entry k at index k; its length is `NSOCK` (log 12). -/
  socks : List Sock
  /-- `TXBUF`. -/
  txbuf : Memory
  /-- `RXBUF`. -/
  rxbuf : Memory
  /-- The model's own: the number of platform resets so far (log 3). -/
  epoch : Nat
  /-- The model's own: what the host does next, oldest first (log 1). -/
  pending : List Event
  /-- The model's own, host side: the value the latest host read returned (log 14). -/
  readData : Word
deriving DecidableEq, Repr

/-- The state after a reset with these parameters (70_reset_and_hazards.md R270): no buffer byte is
written, so every one reads as its free value for this epoch (R271). No event is pending. -/
def State.resetWith (params : Params) (epoch : Nat) : State :=
  { params := params
    cmd := 0#32
    status := { errcode := .ok, sticky := false }
    result := 0#32
    verdict := { cls := .none, slot := 0xFF#8, reason := .none }
    ctrl := { l4csumEn := false, ipcsumEn := false }
    a0 := 0#32
    a1 := 0#32
    a2 := 0#32
    a3 := 0#32
    a4 := 0#32
    a5 := 0#32
    macHi := 0#32
    macLo := 0#16
    ipAddr := 0#32
    ipIdent := 0#16
    ipTtl := 0x40#8
    tcpMss := 0x05B4#16
    rxLen := 0#16
    rxChan := 0#8
    pr := ParseRecord.empty
    socks := List.replicate params.nsock Sock.empty
    txbuf := Memory.empty
    rxbuf := Memory.empty
    epoch := epoch
    pending := []
    readData := 0#32 }

/-- The machine right after power-on reset, with the default parameters of 00_scope.md R8 (log 5,
log 6). -/
def State.reset : State := State.resetWith Config.defaultParams 0

end Sys2Proof.Machine
end

