-- ==== Sys2Proof/Machine/Ops.lean ====
section
/-! DEFINITION. The named operations over the buffers, the registers and the port table, and how a
command ends: with an error (60_exceptions.md rule R240) or with a result (10_state.md R24, R25). -/

namespace Sys2Proof.Machine

open Sys2Proof

/-- What every meaning answers. -/
abbrev Answer := Host.Outcome State Fault Refusal

/-! ## One buffer's written bytes -/

/-- The byte listed at an offset, if any. -/
def lookupCell : List Host.Cell → Nat → Option Byte
  | [], _ => none
  | c :: cs, a => if c.1 = a then some c.2 else lookupCell cs a

/-- The list with byte `b` at offset `a`, rising offsets kept rising. -/
def insertCell : List Host.Cell → Nat → Byte → List Host.Cell
  | [], a, b => [(a, b)]
  | c :: cs, a, b =>
    if a < c.1 then (a, b) :: c :: cs
    else if a = c.1 then (a, b) :: cs
    else c :: insertCell cs a b

/-- The byte something wrote at an offset since reset, if any. -/
def Memory.get? (m : Memory) (a : Nat) : Option Byte := lookupCell m.cells a

/-- Write one byte. -/
def Memory.set (m : Memory) (a : Nat) (b : Byte) : Memory := { cells := insertCell m.cells a b }

/-- Write bytes at consecutive offsets from `off`. -/
def Memory.setRange (m : Memory) (off : Nat) : List Byte → Memory
  | [] => m
  | b :: bs => (m.set off b).setRange (off + 1) bs

/-! ## The buffers of a state -/

/-- The written bytes of a buffer. -/
def bufMem (b : Buf) (s : State) : Memory :=
  match b with
  | .tx => s.txbuf
  | .rx => s.rxbuf

/-- Byte `a` of a buffer: the byte last written there (20_memory.md R72), else the free value it has
held since the last reset (70_reset_and_hazards.md R271). -/
def bufByte (b : Buf) (s : State) (a : Nat) : Byte :=
  ((bufMem b s).get? a).getD (Config.resetByte s.epoch b a)

/-- The bytes `B[off .. off+n)` of a reader (00_scope.md R11). -/
def readRange (B : Nat → Byte) (off : Nat) : Nat → List Byte
  | 0 => []
  | n + 1 => B off :: readRange B (off + 1) n

/-- Write bytes into a buffer at consecutive offsets. -/
def writeBuf (b : Buf) (off : Nat) (bytes : List Byte) (s : State) : State :=
  match b with
  | .tx => { s with txbuf := s.txbuf.setRange off bytes }
  | .rx => { s with rxbuf := s.rxbuf.setRange off bytes }

/-- Every byte of `[off, off + n)` lies below `BUF_BYTES`; on natural numbers, so nothing wraps
(20_memory.md R77). -/
def rangeFits (off n : Nat) (s : State) : Bool := decide (off + n ≤ s.params.bufBytes)

/-! ## How a command ends -/

/-- The state after a command ended in an error (60_exceptions.md R240): `ERRCODE` and `STICKY` are
set, `RESULT` is 0, and nothing else changes. -/
def failed (code : ErrCode) (s : State) : State :=
  { s with status := { errcode := code, sticky := true }, result := 0#32 }

/-- `raise Error(code)` (60_exceptions.md R240). This is the FCE's only exception; no trap is taken and
the engine is ready for the next command (R243). -/
def raiseError (code : ErrCode) (s : State) : Answer := .next (failed code s)

/-- The state after a command that succeeded: `RESULT` is its value, `ERRCODE` is 0, `STICKY` keeps
its value (10_state.md R24, R25). -/
def completed (value : Word) (s : State) : State :=
  { s with status := { errcode := .ok, sticky := s.status.sticky }, result := value }

/-- A command succeeds with a value (10_state.md R25). -/
def complete (value : Word) (s : State) : Answer := .next (completed value s)

/-- The host's way back from an error: `STATUS` written with bit 8 = 1 clears `STICKY` and nothing
else. There is no return-from-trap (10_state.md R24, 60_exceptions.md R244). -/
def clearSticky (s : State) : State :=
  { s with status := { errcode := s.status.errcode, sticky := false } }

/-! ## The local identity -/

/-- `MAC = {MAC_HI, MAC_LO[15:0]}` (10_state.md R28). -/
def localMac (s : State) : Mac := s.macHi ++ s.macLo

/-! ## The port table -/

/-- Entry k of the port table; all fields 0 outside the table (log 12). -/
def sockAt (s : State) (k : Nat) : Sock := s.socks.getD k Sock.empty

/-- Replace entry k. -/
def setSock (k : Nat) (e : Sock) (s : State) : State := { s with socks := s.socks.set k e }

/-- Clear every `RXPEND` (10_state.md R33). -/
def clearRxpend (e : Sock) : Sock := { e with rxpend := false }

/-- `RMAC = {RMAC_HI, RMAC_LO[15:0]}` (10_state.md R37). -/
def sockMac (e : Sock) : Mac := e.rmacHi ++ e.rmacLo

end Sys2Proof.Machine
end

