-- ==== Sys2Proof/Machine/Operands.lean ====
section
/-! DEFINITION. Operands: the big-endian accessors of 00_scope.md rule R11 and 20_memory.md R63, and
the argument layouts of 30_encoding.md rule R96. -/

namespace Sys2Proof.Machine

open Sys2Proof

/-! ## Big-endian accessors -/

/-- `BE16(B, i)` (R11). -/
def be16 (B : Nat → Byte) (i : Nat) : Half := B i ++ B (i + 1)

/-- `BE32(B, i)` (R11). -/
def be32 (B : Nat → Byte) (i : Nat) : Word := B i ++ B (i + 1) ++ B (i + 2) ++ B (i + 3)

/-- `BE48(B, i)` (R11). -/
def be48 (B : Nat → Byte) (i : Nat) : Mac :=
  B i ++ B (i + 1) ++ B (i + 2) ++ B (i + 3) ++ B (i + 4) ++ B (i + 5)

/-- The bytes `PutBE16` writes (R11). -/
def putBe16 (v : Half) : List Byte := [v.extractLsb' 8 8, v.extractLsb' 0 8]

/-- The bytes `PutBE32` writes (R11). -/
def putBe32 (v : Word) : List Byte :=
  [v.extractLsb' 24 8, v.extractLsb' 16 8, v.extractLsb' 8 8, v.extractLsb' 0 8]

/-- The bytes `PutBE48` writes (R11). -/
def putBe48 (v : Mac) : List Byte :=
  [v.extractLsb' 40 8, v.extractLsb' 32 8, v.extractLsb' 24 8, v.extractLsb' 16 8,
    v.extractLsb' 8 8, v.extractLsb' 0 8]

/-- Bits 15:0 of an argument register. -/
def lowHalf (w : Word) : Half := w.extractLsb' 0 16

/-- Bits 31:16 of an argument register. -/
def highHalf (w : Word) : Half := w.extractLsb' 16 16

/-- Bits 7:0 of an argument register. -/
def lowByte (w : Word) : Byte := w.extractLsb' 0 8

/-! ## ETH_ADD -/

/-- `DMAC = {A0, A1[15:0]}` (R96, R151). -/
def ethDmac (s : State) : Mac := s.a0 ++ lowHalf s.a1

/-- `ETYPE = A1[31:16]` (R96, R151). -/
def ethType (s : State) : Half := highHalf s.a1

/-! ## IP_ADD -/

/-- `PROTO = A1[7:0]` (R96, R152). -/
def ipProto (s : State) : Byte := lowByte s.a1

/-- `DLEN = A1[31:16]` (R96, R152). -/
def ipDlen (s : State) : Nat := (highHalf s.a1).toNat

/-! ## UDP_ADD and TCP_ADD -/

/-- `DIP = A0` (R96, R152 to R154). -/
def argDip (s : State) : Word := s.a0

/-- `SPORT = A1[15:0]` (R96, R153, R154). -/
def argSport (s : State) : Half := lowHalf s.a1

/-- `DPORT = A1[31:16]` (R96, R153, R154). -/
def argDport (s : State) : Half := highHalf s.a1

/-- `DLEN = A2[15:0]` of `UDP_ADD` (R96, R153). -/
def udpDlen (s : State) : Nat := (lowHalf s.a2).toNat

/-- `SEQ = A2` (R96, R154). -/
def tcpSeq (s : State) : Word := s.a2

/-- `ACK = A3` (R96, R154). -/
def tcpAck (s : State) : Word := s.a3

/-- `FLAGS = A4[7:0]` (R96, R154). -/
def tcpFlags (s : State) : Byte := lowByte s.a4

/-- `WINDOW = A4[31:16]` (R96, R154). -/
def tcpWindow (s : State) : Half := highHalf s.a4

/-- `DLEN = A5[15:0]` of `TCP_ADD` (R96, R154). -/
def tcpDlen (s : State) : Nat := (lowHalf s.a5).toNat

/-- FLAGS bit 1, SYN (30_encoding.md R113). -/
def tcpSyn (s : State) : Bool := (tcpFlags s).getLsbD 1

/-- The header length `h`: 24 with the MSS option on SYN, else 20 (R154). -/
def tcpHeaderLen (s : State) : Nat := if tcpSyn s then 24 else 20

/-! ## CSUM -/

/-- `INIT = A0[15:0]` (R96, 40_checksum.md R134). -/
def csumInit (s : State) : Half := lowHalf s.a0

/-- `LEN = A1[15:0]` (R96, 40_checksum.md R134). -/
def csumLen (s : State) : Nat := (lowHalf s.a1).toNat

/-! ## SOCK_ALLOC -/

/-- `LPORT = A0[15:0]` (R96, 43_dispatch.md R220). -/
def allocPort (s : State) : Half := lowHalf s.a0

/-- `KIND = A0[16]` (R96, 43_dispatch.md R220). -/
def allocKind (s : State) : SockKind := if s.a0.getLsbD 16 then .stream else .datagram

end Sys2Proof.Machine
end

