-- ==== Sys2Proof/Machine/Flags.lean ====
section
/-! DEFINITION. The status words: how `STATUS`, `VERDICT`, `CTRL`, `PR_VALID`, the port-table word 0
and the `RESULT` of a verification are laid out in bits (10_state.md R24, R26, R27, R35, R37,
30_encoding.md R97). The FCE has no other flag (10_state.md R43). -/

namespace Sys2Proof.Machine

open Sys2Proof

/-- `ERRCODE` (60_exceptions.md R241). -/
def errCodeBits : ErrCode → BitVec 8
  | .ok => 0x00#8
  | .illegal => 0x01#8
  | .reserved => 0x02#8
  | .range => 0x03#8
  | .length => 0x04#8
  | .arg => 0x05#8
  | .slot => 0x06#8

/-- `CLASS` (10_state.md R26). -/
def classBits : FrameClass → BitVec 8
  | .none => 0#8
  | .drop => 1#8
  | .notIp => 2#8
  | .icmp => 3#8
  | .udp => 4#8
  | .tcp => 5#8
  | .udpNoMatch => 6#8
  | .tcpNoMatch => 7#8

/-- `REASON` (10_state.md R26). -/
def reasonBits : Reason → BitVec 8
  | .none => 0#8
  | .chan => 1#8
  | .short => 2#8
  | .mac => 3#8
  | .etype => 4#8
  | .ipdst => 5#8
  | .tlen => 6#8
  | .proto => 7#8
  | .l4hdr => 8#8
  | .l4csum => 9#8
  | .ipcsum => 10#8

/-- `STATUS`: `ERRCODE` in 7:0, `STICKY` in 8 (10_state.md R24). -/
def statusWord (st : Status) : Word :=
  (0#23) ++ BitVec.ofBool st.sticky ++ errCodeBits st.errcode

/-- `VERDICT`: `{0x00, REASON, SLOT, CLASS}` (10_state.md R26). -/
def verdictWord (v : Verdict) : Word :=
  (0#8) ++ reasonBits v.reason ++ v.slot ++ classBits v.cls

/-- `CTRL`: `L4CSUM_EN` in 0, `IPCSUM_EN` in 1 (10_state.md R27). -/
def ctrlWord (c : Ctrl) : Word :=
  (0#30) ++ BitVec.ofBool c.ipcsumEn ++ BitVec.ofBool c.l4csumEn

/-- What a write to `CTRL` stores (10_state.md R27, R41). -/
def ctrlOfWord (v : Word) : Ctrl := { l4csumEn := v.getLsbD 0, ipcsumEn := v.getLsbD 1 }

/-- `PR_VALID`: L2, L3, UDP, TCP, ICMP in bits 0 to 4 (10_state.md R35). -/
def validWord (p : ParseRecord) : Word :=
  (0#27) ++ BitVec.ofBool p.icmp ++ BitVec.ofBool p.tcp ++ BitVec.ofBool p.udp
    ++ BitVec.ofBool p.l3 ++ BitVec.ofBool p.l2

/-- `KIND` as a bit (10_state.md R37). -/
def kindBit : SockKind → BitVec 1
  | .datagram => 0#1
  | .stream => 1#1

/-- `KIND` from a bit (10_state.md R37). -/
def kindOfBit (b : Bool) : SockKind := if b then .stream else .datagram

/-- Word 0 of a port-table entry: `RXPEND` 18, `RBOUND` 17, `KIND` 16, `LPORT` 15:0 (R37). -/
def sockCtlWord (e : Sock) : Word :=
  (0#13) ++ BitVec.ofBool e.rxpend ++ BitVec.ofBool e.rbound ++ kindBit e.kind ++ e.lport

/-- A residual is valid when it is 0xFFFF or 0x0000 (40_checksum.md R133). -/
def residualValid (res : Half) : Bool := res == 0xFFFF#16 || res == 0x0000#16

/-- `RESULT` of `UDP_VERIFY` and `TCP_VERIFY`: `{residual, 14 zero bits, STRUCT, VALID}`
(30_encoding.md R97). -/
def verifyWord (res : Half) (st ok : Bool) : Word :=
  res ++ (0#14) ++ BitVec.ofBool st ++ BitVec.ofBool ok

end Sys2Proof.Machine
end

