-- ==== Sys2Proof/Machine/Checksum.lean ====
section
/-! DEFINITION. The checksum engine and `CSUM` (40_checksum.md rules R130 to R135). -/

namespace Sys2Proof.Machine

open Sys2Proof

/-- `oc_add`: 16-bit addition with end-around carry (R130). The sum is taken exactly and narrowed
once. -/
def ocAdd (s w : Half) : Half :=
  let t := s.toNat + w.toNat
  if 0xFFFF < t then BitVec.ofNat 16 (t - 0xFFFF) else BitVec.ofNat 16 t

/-- `csum_add`: the running one's-complement sum over big-endian 16-bit words, an odd last byte
taken as the high byte (R130). -/
def csumAdd (init : Half) : List Byte → Half
  | [] => init
  | [b] => ocAdd init (b ++ (0x00#8))
  | b :: c :: rest => csumAdd (ocAdd init (b ++ c)) rest

/-- A generated checksum field: the complement of the sum with the field zero, with no substitution
for 0x0000 (R131). -/
def checksumField (sum : Half) : Half := ~~~sum

/-- The 12 pseudo-header bytes (R132, 30_encoding.md R115). -/
def pseudoHeader (sip dip : Word) (proto : Byte) (len : Half) : List Byte :=
  putBe32 sip ++ putBe32 dip ++ [0x00#8, proto] ++ putBe16 len

/-- `l4sum`: the sum over the pseudo-header and then the segment (R132). -/
def l4sum (sip dip : Word) (proto : Byte) (seg : List Byte) : Half :=
  csumAdd (csumAdd 0#16 (pseudoHeader sip dip proto (BitVec.ofNat 16 seg.length))) seg

/-- `CSUM` (R134): the running sum of `LEN` bytes of the selected buffer from `OFF`, started at
`INIT` and not complemented. It does not consult `RX_LEN`. -/
def execCsum (off : Nat) (buf : Buf) (s : State) : Answer :=
  if rangeFits off (csumLen s) s then
    complete ((csumAdd (csumInit s) (readRange (bufByte buf s) off (csumLen s))).setWidth 32) s
  else raiseError .range s

end Sys2Proof.Machine
end

