-- ==== Sys2Proof/Machine/Construct.lean ====
section
/-! DEFINITION. `NOP` and the header construction commands (41_construct.md rules R150 to R156). Each
tests its lengths and its range before it writes anything (60_exceptions.md R242, 00_scope.md R12). -/

namespace Sys2Proof.Machine

open Sys2Proof

/-- `NOP` (R150): no effect but `RESULT` 0 and `ERRCODE` 0. -/
def execNop (s : State) : Answer := complete 0#32 s

/-- The 14 bytes of `ETH_ADD` (R151, 30_encoding.md R110). -/
def ethHeader (s : State) : List Byte :=
  putBe48 (ethDmac s) ++ putBe48 (localMac s) ++ putBe16 (ethType s)

/-- `ETH_ADD` (R151). -/
def execEthAdd (off : Nat) (s : State) : Answer :=
  if rangeFits off 14 s then complete 14#32 (writeBuf .tx off (ethHeader s) s)
  else raiseError .range s

/-- The 20 bytes of `IP_ADD` with a given checksum field (R152, 30_encoding.md R111). -/
def ipHeaderWith (field : Half) (s : State) : List Byte :=
  [0x45#8, 0x00#8] ++ putBe16 (BitVec.ofNat 16 (20 + ipDlen s)) ++ putBe16 s.ipIdent
    ++ putBe16 0x0000#16 ++ [s.ipTtl, ipProto s] ++ putBe16 field
    ++ putBe32 s.ipAddr ++ putBe32 (argDip s)

/-- The header `IP_ADD` writes: its checksum is generated over itself with the field zero (R131). -/
def ipHeader (s : State) : List Byte :=
  ipHeaderWith (checksumField (csumAdd 0#16 (ipHeaderWith 0#16 s))) s

/-- `IP_IDENT <- (IP_IDENT + 1) mod 2^16` (R152, 10_state.md R30). -/
def advanceIdent (s : State) : State := { s with ipIdent := s.ipIdent + 1#16 }

/-- `IP_ADD` (R152): the header uses `IP_IDENT` before it advances. -/
def execIpAdd (off : Nat) (s : State) : Answer :=
  if 0xFFFF < 20 + ipDlen s then raiseError .length s
  else if rangeFits off 20 s then
    complete 20#32 (advanceIdent (writeBuf .tx off (ipHeader s) s))
  else raiseError .range s

/-- The 8 bytes of `UDP_ADD` with a given checksum field (R153, 30_encoding.md R112). -/
def udpHeaderWith (field : Half) (s : State) : List Byte :=
  putBe16 (argSport s) ++ putBe16 (argDport s) ++ putBe16 (BitVec.ofNat 16 (8 + udpDlen s))
    ++ putBe16 field

/-- The `UDP_ADD` payload, already in `TXBUF` after the header (R153). -/
def udpPayload (off : Nat) (s : State) : List Byte :=
  readRange (bufByte .tx s) (off + 8) (udpDlen s)

/-- The header `UDP_ADD` writes: its checksum covers the pseudo-header, the header with the field
zero, and the payload (R153, 40_checksum.md R131, R132). -/
def udpHeader (off : Nat) (s : State) : List Byte :=
  udpHeaderWith (checksumField
    (l4sum s.ipAddr (argDip s) Config.protoUdp (udpHeaderWith 0#16 s ++ udpPayload off s))) s

/-- `UDP_ADD` (R153). -/
def execUdpAdd (off : Nat) (s : State) : Answer :=
  if 0xFFFF < 8 + udpDlen s then raiseError .length s
  else if rangeFits off (8 + udpDlen s) s then
    complete 8#32 (writeBuf .tx off (udpHeader off s) s)
  else raiseError .range s

/-- The MSS option, present exactly on SYN (R154, 30_encoding.md R114). -/
def mssOption (s : State) : List Byte :=
  if tcpSyn s then [0x02#8, 0x04#8] ++ putBe16 s.tcpMss else []

/-- The 20 or 24 bytes of `TCP_ADD` with a given checksum field (R154, 30_encoding.md R113). -/
def tcpHeaderWith (field : Half) (s : State) : List Byte :=
  putBe16 (argSport s) ++ putBe16 (argDport s) ++ putBe32 (tcpSeq s) ++ putBe32 (tcpAck s)
    ++ [BitVec.ofNat 4 (tcpHeaderLen s / 4) ++ (0#4), tcpFlags s]
    ++ putBe16 (tcpWindow s) ++ putBe16 field ++ putBe16 0x0000#16 ++ mssOption s

/-- The `TCP_ADD` payload, already in `TXBUF` after the header (R154). -/
def tcpPayload (off : Nat) (s : State) : List Byte :=
  readRange (bufByte .tx s) (off + tcpHeaderLen s) (tcpDlen s)

/-- The header `TCP_ADD` writes, its checksum as for UDP with protocol 6 (R154). -/
def tcpHeader (off : Nat) (s : State) : List Byte :=
  tcpHeaderWith (checksumField
    (l4sum s.ipAddr (argDip s) Config.protoTcp (tcpHeaderWith 0#16 s ++ tcpPayload off s))) s

/-- `TCP_ADD` (R154). -/
def execTcpAdd (off : Nat) (s : State) : Answer :=
  if 0xFFFF < tcpHeaderLen s + tcpDlen s then raiseError .length s
  else if rangeFits off (tcpHeaderLen s + tcpDlen s) s then
    complete (BitVec.ofNat 32 (tcpHeaderLen s)) (writeBuf .tx off (tcpHeader off s) s)
  else raiseError .range s

end Sys2Proof.Machine
end

