-- ==== Sys2Proof/Machine/Parse.lean ====
section
/-! DEFINITION. Parsing, admission and validation of the frame in `RXBUF[0 .. RX_LEN)`
(42_parse_validate.md rules R180 to R194). -/

namespace Sys2Proof.Machine

open Sys2Proof

/-! ## The parse function -/

/-- L2: the Ethernet fields (R182). -/
def parseL2 (B : Nat → Byte) : ParseRecord :=
  { ParseRecord.empty with l2 := true, edst := be48 B 0, esrc := be48 B 6, etype := be16 B 12 }

/-- L3: the IP header words, always at offset 14 and 20 bytes long (R182, R183). -/
def parseL3 (B : Nat → Byte) (p : ParseRecord) : ParseRecord :=
  { p with
    l3 := true
    ipw0 := be32 B 14
    ipw1 := be32 B 18
    ipw2 := be32 B 22
    sip := be32 B 26
    dip := be32 B 30 }

/-- The IP total length of a parse record (R182). -/
def recTlen (p : ParseRecord) : Nat := (p.ipw0.extractLsb' 0 16).toNat

/-- The IP protocol of a parse record (R182). -/
def recProto (p : ParseRecord) : Byte := p.ipw2.extractLsb' 16 8

/-- `udp_ok` (R184): the UDP length decides, and lies inside the datagram. -/
def udpOk (B : Nat → Byte) (tlen : Nat) (fits : Bool) : Bool :=
  decide (28 ≤ tlen) && fits && decide (8 ≤ (be16 B 38).toNat)
    && decide ((be16 B 38).toNat ≤ tlen - 20)

/-- `DOFF = RX[46][7:4]` (R185). -/
def tcpDoff (B : Nat → Byte) : Nat := ((B 46).extractLsb' 4 4).toNat

/-- `tcp_ok` (R185). -/
def tcpOk (B : Nat → Byte) (tlen : Nat) (fits : Bool) : Bool :=
  decide (40 ≤ tlen) && fits && decide (5 ≤ tcpDoff B) && decide (20 + 4 * tcpDoff B ≤ tlen)

/-- The UDP fields (R184). -/
def parseUdp (B : Nat → Byte) (p : ParseRecord) : ParseRecord :=
  { p with
    udp := true
    ports := be32 B 34
    udpw := be32 B 38
    data := (42#16) ++ (be16 B 38 - 8#16) }

/-- The TCP fields (R185). -/
def parseTcp (B : Nat → Byte) (p : ParseRecord) : ParseRecord :=
  { p with
    tcp := true
    ports := be32 B 34
    tseq := be32 B 38
    tack := be32 B 42
    tw3 := be32 B 46
    tw4 := be32 B 50
    data := BitVec.ofNat 16 (34 + 4 * tcpDoff B)
      ++ BitVec.ofNat 16 (recTlen p - 20 - 4 * tcpDoff B) }

/-- The transport level of a record whose L3 is valid (R182, R184 to R186). -/
def parseL4 (B : Nat → Byte) (len : Nat) (p : ParseRecord) : ParseRecord :=
  if recProto p = Config.protoUdp then
    if udpOk B (recTlen p) (decide (14 + recTlen p ≤ len)) then parseUdp B p else p
  else if recProto p = Config.protoTcp then
    if tcpOk B (recTlen p) (decide (14 + recTlen p ≤ len)) then parseTcp B p else p
  else if recProto p = Config.protoIcmp then { p with icmp := true }
  else p

/-- `parse()` over a byte reader and a received length (R182). -/
def parseFrame (B : Nat → Byte) (len : Nat) : ParseRecord :=
  if len < 14 then ParseRecord.empty
  else if (parseL2 B).etype ≠ Config.etypeIpv4 ∨ len < 34 then parseL2 B
  else parseL4 B len (parseL3 B (parseL2 B))

/-- `parse()` of the frame in `RXBUF` (R182). -/
def parseRx (s : State) : ParseRecord := parseFrame (bufByte .rx s) s.rxLen.toNat

/-! ## Admission -/

/-- The broadcast MAC (00_scope.md R13). -/
def broadcastMac : Mac := 0xFFFFFFFFFFFF#48

/-- The broadcast IP; only all-ones counts (00_scope.md R13, R190). -/
def broadcastIp : Word := 0xFFFFFFFF#32

/-- the admission function `admission` (R190): the first failing test, in the source's order. The total length is compared
with the whole received length (90_conflicts.md C3). -/
def admission (s : State) : Reason :=
  if s.rxLen.toNat < Config.minFrame then .short
  else if ¬ (be48 (bufByte .rx s) 0 = broadcastMac ∨ be48 (bufByte .rx s) 0 = localMac s) then .mac
  else if be16 (bufByte .rx s) 12 ≠ Config.etypeIpv4 then .etype
  else if ¬ (be32 (bufByte .rx s) 30 = broadcastIp ∨ be32 (bufByte .rx s) 30 = s.ipAddr
      ∨ s.ipAddr = 0#32) then .ipdst
  else if s.rxLen.toNat < (be16 (bufByte .rx s) 16).toNat then .tlen
  else .none

/-! ## Residuals -/

/-- The UDP residual: the pseudo-header and exactly `ulen` bytes from offset 34, the field as
received (R192). -/
def udpResidual (p : ParseRecord) (s : State) : Half :=
  l4sum p.sip p.dip Config.protoUdp
    (readRange (bufByte .rx s) 34 (p.udpw.extractLsb' 16 16).toNat)

/-- The TCP residual: the pseudo-header and `tlen − 20` bytes from offset 34 (R193). -/
def tcpResidual (p : ParseRecord) (s : State) : Half :=
  l4sum p.sip p.dip Config.protoTcp (readRange (bufByte .rx s) 34 (recTlen p - 20))

/-- The IP header residual over `RX[14 .. 34)` (43_dispatch.md R213). -/
def ipResidual (s : State) : Half := csumAdd 0#16 (readRange (bufByte .rx s) 14 20)

/-! ## The commands -/

/-- `PARSE` (R181): every `PR_*` register, and `RESULT` is `PR_VALID`. -/
def execParse (s : State) : Answer :=
  complete (validWord (parseRx s)) { s with pr := parseRx s }

/-- What `IP_CHECK` writes to `VERDICT` for a reason (R190). -/
def checkVerdict (r : Reason) : Verdict :=
  { cls := if r = .none then .none else .drop, slot := 0xFF#8, reason := r }

/-- `IP_CHECK` (R190): it writes `VERDICT`, tests no channel and no checksum. -/
def execIpCheck (s : State) : Answer :=
  complete (if admission s = .none then 1#32 else 0#32) { s with verdict := checkVerdict (admission s) }

/-- `RESULT` of a verification: 0 when the structural test failed (R192, R193, 30_encoding.md R97). -/
def verifyResult (st : Bool) (res : Half) : Word :=
  if st then verifyWord res true (residualValid res) else verifyWord 0#16 false false

/-- `UDP_VERIFY` (R192); `PR_*` and `VERDICT` are unchanged. -/
def execUdpVerify (s : State) : Answer :=
  complete (verifyResult (parseRx s).udp (udpResidual (parseRx s) s)) s

/-- `TCP_VERIFY` (R193); `PR_*` and `VERDICT` are unchanged. -/
def execTcpVerify (s : State) : Answer :=
  complete (verifyResult (parseRx s).tcp (tcpResidual (parseRx s) s)) s

end Sys2Proof.Machine
end

