-- ==== Sys2Proof/Machine/PortTable.lean ====
section
/-! DEFINITION. Dispatch and the port table (43_dispatch.md rules R210 to R223). -/

namespace Sys2Proof.Machine

open Sys2Proof

/-! ## Matching -/

/-- `SPORT` of a parse record (10_state.md R35). -/
def recSport (p : ParseRecord) : Half := highHalf p.ports

/-- `DPORT` of a parse record (10_state.md R35). -/
def recDport (p : ParseRecord) : Half := lowHalf p.ports

/-- A UDP entry matches on local port alone (R215, 10_state.md R38). -/
def udpMatches (p : ParseRecord) (e : Sock) : Bool :=
  decide (e.lport ≠ 0#16) && decide (e.kind = .datagram) && decide (e.lport = recDport p)

/-- Pass 1 of the TCP path: an entry bound to this remote endpoint (R216). -/
def tcpBoundMatches (p : ParseRecord) (e : Sock) : Bool :=
  decide (e.lport ≠ 0#16) && decide (e.kind = .stream) && e.rbound
    && decide (e.lport = recDport p) && decide (e.rip = p.sip) && decide (e.rport = recSport p)

/-- Pass 2 of the TCP path: a listener (R216). -/
def tcpListenerMatches (p : ParseRecord) (e : Sock) : Bool :=
  decide (e.lport ≠ 0#16) && decide (e.kind = .stream) && !e.rbound
    && decide (e.lport = recDport p)

/-- The slot a TCP segment goes to: the first bound match, else the first listener (R216). -/
def tcpHit (p : ParseRecord) (socks : List Sock) : Option Nat :=
  match socks.findIdx? (tcpBoundMatches p) with
  | some k => some k
  | none => socks.findIdx? (tcpListenerMatches p)

/-! ## Delivery -/

/-- The receive descriptor of a delivery (R215, R216); an earlier one is overwritten (R217). -/
def describe (p : ParseRecord) (e : Sock) : Sock :=
  { e with rxoff := highHalf p.data, rxlen := lowHalf p.data, rxpend := true }

/-- The sender recorded by a UDP delivery (R215). -/
def recordSender (p : ParseRecord) (e : Sock) : Sock :=
  { e with
    rmacHi := p.esrc.extractLsb' 16 32
    rmacLo := p.esrc.extractLsb' 0 16
    rip := p.sip
    rport := recSport p }

/-! ## Classification -/

/-- A verdict that names no slot. -/
def noSlot (c : FrameClass) (r : Reason) : Verdict := { cls := c, slot := 0xFF#8, reason := r }

/-- A verdict that delivers to slot k. -/
def toSlot (c : FrameClass) (k : Nat) : Verdict :=
  { cls := c, slot := BitVec.ofNat 8 k, reason := .none }

/-- The UDP path (R215): structure, optional checksum, port match, delivery. It answers the verdict
and the table after it. -/
def udpPath (p : ParseRecord) (s : State) : Verdict × List Sock :=
  if p.udp = false then (noSlot .drop .l4hdr, s.socks)
  else if s.ctrl.l4csumEn = true ∧ residualValid (udpResidual p s) = false then
    (noSlot .drop .l4csum, s.socks)
  else
    match s.socks.findIdx? (udpMatches p) with
    | some k =>
      (toSlot .udp k, s.socks.set k (describe p (recordSender p (sockAt s k))))
    | none => (noSlot .udpNoMatch .none, s.socks)

/-- The TCP path (R216): structure, optional checksum, two-pass match, delivery of the descriptor
only. -/
def tcpPath (p : ParseRecord) (s : State) : Verdict × List Sock :=
  if p.tcp = false then (noSlot .drop .l4hdr, s.socks)
  else if s.ctrl.l4csumEn = true ∧ residualValid (tcpResidual p s) = false then
    (noSlot .drop .l4csum, s.socks)
  else
    match tcpHit p s.socks with
    | some k => (toSlot .tcp k, s.socks.set k (describe p (sockAt s k)))
    | none => (noSlot .tcpNoMatch .none, s.socks)

/-- Step 4, the protocol demultiplexer (R214). -/
def demux (p : ParseRecord) (s : State) : Verdict × List Sock :=
  if recProto p = Config.protoIcmp then (noSlot .icmp .none, s.socks)
  else if recProto p = Config.protoUdp then udpPath p s
  else if recProto p = Config.protoTcp then tcpPath p s
  else (noSlot .drop .proto, s.socks)

/-- `classify` (R211 to R216): the channel, admission with the non-IP exit, the optional IP header
checksum, the protocol. -/
def classify (p : ParseRecord) (s : State) : Verdict × List Sock :=
  if s.rxChan ≠ s.params.dataChan then (noSlot .drop .chan, s.socks)
  else if admission s = .short ∨ admission s = .mac then (noSlot .drop (admission s), s.socks)
  else if admission s = .etype then (noSlot .notIp .none, s.socks)
  else if admission s ≠ .none then (noSlot .drop (admission s), s.socks)
  else if s.ctrl.ipcsumEn = true ∧ residualValid (ipResidual s) = false then
    (noSlot .drop .ipcsum, s.socks)
  else demux p s

/-! ## The commands -/

/-- `DISPATCH` (R210): all `PR_*`, `VERDICT`, at most one table entry; `RESULT` is `VERDICT`. -/
def execDispatch (s : State) : Answer :=
  complete (verdictWord (classify (parseRx s) s).1)
    { s with
      pr := parseRx s
      verdict := (classify (parseRx s) s).1
      socks := (classify (parseRx s) s).2 }

/-- An unused entry (10_state.md R38). -/
def sockUnused (e : Sock) : Bool := decide (e.lport = 0#16)

/-- The entry `SOCK_ALLOC` writes: all fields 0 but the port and the kind (R220). -/
def allocEntry (s : State) : Sock := { Sock.empty with lport := allocPort s, kind := allocKind s }

/-- `SOCK_ALLOC` (R220): the first unused entry, or the "no slot" result 0xFFFFFFFF. -/
def execSockAlloc (s : State) : Answer :=
  if allocPort s = 0#16 then raiseError .arg s
  else
    match s.socks.findIdx? sockUnused with
    | some k => complete (BitVec.ofNat 32 k) (setSock k (allocEntry s) s)
    | none => complete 0xFFFFFFFF#32 s

/-- What `SOCK_CLEAR` leaves in an entry: the listen template keeps port and kind, free keeps
nothing (R221). -/
def clearedEntry (mode : ClearMode) (e : Sock) : Sock :=
  match mode with
  | .template => { Sock.empty with lport := e.lport, kind := e.kind }
  | .free => Sock.empty

/-- `SOCK_CLEAR` (R221). -/
def execSockClear (slot : Nat) (mode : ClearMode) (s : State) : Answer :=
  if slot < s.params.nsock then
    complete (BitVec.ofNat 32 slot) (setSock slot (clearedEntry mode (sockAt s slot)) s)
  else raiseError .slot s

end Sys2Proof.Machine
end

