-- ==== Sys2Proof/Machine/Dispatch.lean ====
section
/-! DEFINITION. Which meaning each command has: one arm per constructor of `Instr`. -/

namespace Sys2Proof.Machine

open Sys2Proof

def exec (i : Instr) (s : State) : Host.Outcome State Fault Refusal :=
  match i with
  | .nop => Sys2Proof.Machine.execNop s
  | .ethAdd off => Sys2Proof.Machine.execEthAdd off s
  | .ipAdd off => Sys2Proof.Machine.execIpAdd off s
  | .udpAdd off => Sys2Proof.Machine.execUdpAdd off s
  | .tcpAdd off => Sys2Proof.Machine.execTcpAdd off s
  | .csum off buf => Sys2Proof.Machine.execCsum off buf s
  | .parse => Sys2Proof.Machine.execParse s
  | .ipCheck => Sys2Proof.Machine.execIpCheck s
  | .udpVerify => Sys2Proof.Machine.execUdpVerify s
  | .tcpVerify => Sys2Proof.Machine.execTcpVerify s
  | .dispatch => Sys2Proof.Machine.execDispatch s
  | .sockAlloc => Sys2Proof.Machine.execSockAlloc s
  | .sockClear slot mode => Sys2Proof.Machine.execSockClear slot mode s

end Sys2Proof.Machine
end

