-- ==== Sys2Proof/Machine/HostBus.lean ====
section
/-! DEFINITION. What host accesses reach: the address map (20_memory.md rule R60), the register map
and its fields (10_state.md rules R22 to R41) and the buffer windows (20_memory.md rules R61, R65). -/

namespace Sys2Proof.Machine

open Sys2Proof

/-! ## The register map -/

/-- The parse-result registers (10_state.md R35). -/
inductive PrReg where
  | valid
  | edstHi
  | edstLo
  | esrcHi
  | esrcLo
  | etype
  | ipw0
  | ipw1
  | ipw2
  | sip
  | dip
  | ports
  | udp
  | tseq
  | tack
  | tw3
  | tw4
  | data
deriving DecidableEq, Repr

/-- The assigned words of a port-table entry (10_state.md R37). -/
inductive SockWord where
  | ctl
  | rport
  | rip
  | rmacHi
  | rmacLo
  | rxoff
  | rxlen
deriving DecidableEq, Repr

/-- Every register the map assigns (10_state.md R22). -/
inductive Reg where
  | cmd
  | status
  | result
  | verdict
  | ctrl
  | a0
  | a1
  | a2
  | a3
  | a4
  | a5
  | macHi
  | macLo
  | ipAddr
  | ipIdent
  | ipTtl
  | tcpMss
  | rxLen
  | rxChan
  | pr (r : PrReg)
  | sock (k : Nat) (w : SockWord)
deriving DecidableEq, Repr

/-- The offsets of the registers that are not port-table words (10_state.md R22, R35). -/
def registerMap : List (Nat × Reg) :=
  [(0x000, .cmd), (0x004, .status), (0x008, .result), (0x00C, .verdict), (0x010, .ctrl),
    (0x020, .a0), (0x024, .a1), (0x028, .a2), (0x02C, .a3), (0x030, .a4), (0x034, .a5),
    (0x040, .macHi), (0x044, .macLo), (0x048, .ipAddr), (0x04C, .ipIdent), (0x050, .ipTtl),
    (0x054, .tcpMss), (0x058, .rxLen), (0x05C, .rxChan)]
  ++ [(0x080, .pr .valid), (0x084, .pr .edstHi), (0x088, .pr .edstLo), (0x08C, .pr .esrcHi),
    (0x090, .pr .esrcLo), (0x094, .pr .etype), (0x098, .pr .ipw0), (0x09C, .pr .ipw1),
    (0x0A0, .pr .ipw2), (0x0A4, .pr .sip), (0x0A8, .pr .dip), (0x0AC, .pr .ports),
    (0x0B0, .pr .udp), (0x0B4, .pr .tseq), (0x0B8, .pr .tack), (0x0BC, .pr .tw3),
    (0x0C0, .pr .tw4), (0x0C4, .pr .data)]

/-- The word at a byte offset within a port-table entry; +0x1C is unassigned (10_state.md R37, R40). -/
def sockWordAt (o : Nat) : Option SockWord :=
  if o = 0x00 then some .ctl
  else if o = 0x04 then some .rport
  else if o = 0x08 then some .rip
  else if o = 0x0C then some .rmacHi
  else if o = 0x10 then some .rmacLo
  else if o = 0x14 then some .rxoff
  else if o = 0x18 then some .rxlen
  else none

/-- The port-table word at an offset: entry k at 0x100 + 0x20·k, only for k < NSOCK (10_state.md R22,
R37, R40). -/
def sockRegAt (nsock off : Nat) : Option Reg :=
  if 0x100 ≤ off ∧ (off - 0x100) / 0x20 < nsock then
    (sockWordAt ((off - 0x100) % 0x20)).map (fun w => .sock ((off - 0x100) / 0x20) w)
  else none

/-- The register at an offset of register space, none where the map assigns none (10_state.md R40). -/
def regAt (nsock off : Nat) : Option Reg :=
  match registerMap.lookup off with
  | some r => some r
  | none => sockRegAt nsock off

/-! ## Reading a register -/

/-- A parse-result register (10_state.md R35). -/
def readPr (p : ParseRecord) : PrReg → Word
  | .valid => validWord p
  | .edstHi => p.edst.extractLsb' 16 32
  | .edstLo => (p.edst.extractLsb' 0 16).setWidth 32
  | .esrcHi => p.esrc.extractLsb' 16 32
  | .esrcLo => (p.esrc.extractLsb' 0 16).setWidth 32
  | .etype => p.etype.setWidth 32
  | .ipw0 => p.ipw0
  | .ipw1 => p.ipw1
  | .ipw2 => p.ipw2
  | .sip => p.sip
  | .dip => p.dip
  | .ports => p.ports
  | .udp => p.udpw
  | .tseq => p.tseq
  | .tack => p.tack
  | .tw3 => p.tw3
  | .tw4 => p.tw4
  | .data => p.data

/-- A word of a port-table entry (10_state.md R37). -/
def readSock (e : Sock) : SockWord → Word
  | .ctl => sockCtlWord e
  | .rport => e.rport.setWidth 32
  | .rip => e.rip
  | .rmacHi => e.rmacHi
  | .rmacLo => e.rmacLo.setWidth 32
  | .rxoff => e.rxoff.setWidth 32
  | .rxlen => e.rxlen.setWidth 32

/-- What a host read of a register returns; reserved bits read 0 (10_state.md R41). -/
def readReg (s : State) : Reg → Word
  | .cmd => s.cmd
  | .status => statusWord s.status
  | .result => s.result
  | .verdict => verdictWord s.verdict
  | .ctrl => ctrlWord s.ctrl
  | .a0 => s.a0
  | .a1 => s.a1
  | .a2 => s.a2
  | .a3 => s.a3
  | .a4 => s.a4
  | .a5 => s.a5
  | .macHi => s.macHi
  | .macLo => s.macLo.setWidth 32
  | .ipAddr => s.ipAddr
  | .ipIdent => s.ipIdent.setWidth 32
  | .ipTtl => s.ipTtl.setWidth 32
  | .tcpMss => s.tcpMss.setWidth 32
  | .rxLen => s.rxLen.setWidth 32
  | .rxChan => s.rxChan.setWidth 32
  | .pr r => readPr s.pr r
  | .sock k w => readSock (sockAt s k) w

/-! ## Writing a register -/

/-- A host write to a word of a port-table entry (10_state.md R37). -/
def writeSock (w : SockWord) (v : Word) (e : Sock) : Sock :=
  match w with
  | .ctl =>
    { e with
      lport := lowHalf v
      kind := kindOfBit (v.getLsbD 16)
      rbound := v.getLsbD 17
      rxpend := v.getLsbD 18 }
  | .rport => { e with rport := lowHalf v }
  | .rip => { e with rip := v }
  | .rmacHi => { e with rmacHi := v }
  | .rmacLo => { e with rmacLo := lowHalf v }
  | .rxoff => { e with rxoff := lowHalf v }
  | .rxlen => { e with rxlen := lowHalf v }

/-- What a write to `RX_LEN` stores: `min(v[15:0], BUF_BYTES)` (10_state.md R33). -/
def clampRxLen (s : State) (v : Word) : Half :=
  BitVec.ofNat 16 (min (lowHalf v).toNat s.params.bufBytes)

/-- A host write to a register, but for the command that a write to `CMD` then performs
(10_state.md R23 to R37): reserved bits and read-only registers ignore it (R41), a write to `STATUS`
clears `STICKY` by bit 8, a write to `RX_LEN` clamps and clears every `RXPEND` (20_memory.md R68). -/
def writeReg (r : Reg) (v : Word) (s : State) : State :=
  match r with
  | .cmd => { s with cmd := v }
  | .status => if v.getLsbD 8 then clearSticky s else s
  | .result => s
  | .verdict => s
  | .ctrl => { s with ctrl := ctrlOfWord v }
  | .a0 => { s with a0 := v }
  | .a1 => { s with a1 := v }
  | .a2 => { s with a2 := v }
  | .a3 => { s with a3 := v }
  | .a4 => { s with a4 := v }
  | .a5 => { s with a5 := v }
  | .macHi => { s with macHi := v }
  | .macLo => { s with macLo := lowHalf v }
  | .ipAddr => { s with ipAddr := v }
  | .ipIdent => { s with ipIdent := lowHalf v }
  | .ipTtl => { s with ipTtl := lowByte v }
  | .tcpMss => { s with tcpMss := lowHalf v }
  | .rxLen => { s with rxLen := clampRxLen s v, socks := s.socks.map clearRxpend }
  | .rxChan => { s with rxChan := lowByte v }
  | .pr _ => s
  | .sock k w => setSock k (writeSock w v (sockAt s k)) s

/-! ## The address map -/

/-- What a host address reaches (20_memory.md R60). -/
inductive Target where
  | register (off : Nat)
  | window (b : Buf) (w : Nat)
deriving DecidableEq, Repr

/-- The target of a host address, none outside the 0x30000 bytes from `CODEC_BASE` (20_memory.md R60). -/
def locate (base addr : Nat) : Option Target :=
  if addr < base then none
  else if addr - base < 0x10000 then some (.register (addr - base))
  else if addr - base < 0x20000 then some (.window .tx (addr - base - 0x10000))
  else if addr - base < 0x30000 then some (.window .rx (addr - base - 0x20000))
  else none

/-- The bytes of an access. -/
def widthBytes : Width → Nat
  | .byte => 1
  | .half => 2
  | .word => 4

/-- The accesses 20_memory.md R67 allows: aligned 32-bit in register space, naturally aligned of any
width in the windows. Alignment is that of the offset (log 8). -/
def accessAllowed (t : Target) (width : Width) : Bool :=
  match t with
  | .register off => decide (width = .word) && decide (off % 4 = 0)
  | .window _ w => decide (w % widthBytes width = 0)

/-- Why an access that R67 does not allow is refused. -/
def accessRefusal : Target → Refusal
  | .register _ => .subWordRegisterAccess
  | .window _ _ => .misalignedWindowAccess

/-! ## The windows -/

/-- A window byte: the buffer byte below `BUF_BYTES`, 0 from there on (20_memory.md R61). -/
def windowByte (b : Buf) (s : State) (w : Nat) : Byte :=
  if w < s.params.bufBytes then bufByte b s w else 0#8

/-- A write to a window byte; ignored from `BUF_BYTES` on (20_memory.md R61). -/
def setWindowByte (b : Buf) (w : Nat) (v : Byte) (s : State) : State :=
  if w < s.params.bufBytes then writeBuf b w [v] s else s

/-- A window read, little-endian lanes, zero-extended to 32 bits (20_memory.md R65). -/
def readWindow (b : Buf) (width : Width) (w : Nat) (s : State) : Word :=
  match width with
  | .byte => (windowByte b s w).setWidth 32
  | .half => (windowByte b s (w + 1) ++ windowByte b s w).setWidth 32
  | .word =>
    windowByte b s (w + 3) ++ windowByte b s (w + 2) ++ windowByte b s (w + 1) ++ windowByte b s w

/-- A window write, little-endian lanes (20_memory.md R65). -/
def writeWindow (b : Buf) (width : Width) (w : Nat) (v : Word) (s : State) : State :=
  match width with
  | .byte => setWindowByte b w (v.extractLsb' 0 8) s
  | .half => setWindowByte b (w + 1) (v.extractLsb' 8 8) (setWindowByte b w (v.extractLsb' 0 8) s)
  | .word =>
    setWindowByte b (w + 3) (v.extractLsb' 24 8)
      (setWindowByte b (w + 2) (v.extractLsb' 16 8)
        (setWindowByte b (w + 1) (v.extractLsb' 8 8)
          (setWindowByte b w (v.extractLsb' 0 8) s)))

/-- What an allowed read returns; an unassigned register offset reads 0 (10_state.md R40). Reads have
no side effect (20_memory.md R68). -/
def readTarget (t : Target) (width : Width) (s : State) : Word :=
  match t with
  | .register off =>
    match regAt s.params.nsock off with
    | some r => readReg s r
    | none => 0#32
  | .window b w => readWindow b width w s

end Sys2Proof.Machine
end

