-- ==== Sys2Proof/Machine/Engine.lean ====
section
/-! DEFINITION. The engine and its bus: what a write of `CMD` performs (10_state.md rule R23,
30_encoding.md rule R90), what one host access does (20_memory.md rules R66 to R69), what one event
does. -/

namespace Sys2Proof.Machine

open Sys2Proof

/-- The error a word that is no command raises (30_encoding.md R90). -/
def decodeErrorCode : DecodeError → ErrCode
  | .illegal => .illegal
  | .reserved => .reserved

/-- A host write of `CMD`: the word is stored, legal or not, and then performed (10_state.md R23,
30_encoding.md R90). -/
def issueCommand (w : Word) (s : State) : Answer :=
  match decode w with
  | .ok i => exec i { s with cmd := w }
  | .error e => raiseError (decodeErrorCode e) { s with cmd := w }

/-- An allowed host write (20_memory.md R68): only `CMD` performs a command. -/
def writeTarget (t : Target) (width : Width) (v : Word) (s : State) : Answer :=
  match t with
  | .register off =>
    match regAt s.params.nsock off with
    | some .cmd => issueCommand v s
    | some r => .next (writeReg r v s)
    | none => .next s
  | .window b w => .next (writeWindow b width w v s)

/-- One host access, performed whole (20_memory.md R66, R69). A read delivers its value to the host
(log 14). -/
def performAccess (a : Access) (s : State) : Answer :=
  match a with
  | .read addr width =>
    match locate s.params.codecBase addr with
    | none => .fault .outsideAddressSpace
    | some t =>
      if accessAllowed t width then .next { s with readData := readTarget t width s }
      else .refused (accessRefusal t)
  | .write addr width v =>
    match locate s.params.codecBase addr with
    | none => .fault .outsideAddressSpace
    | some t =>
      if accessAllowed t width then writeTarget t width v s
      else .refused (accessRefusal t)

/-- A platform reset (70_reset_and_hazards.md R270): every register at its reset value, every buffer
byte unspecified again, no command performed. What belongs to the host (its pending events, the
value it last read) and the parameters stay (log 4). -/
def platformReset (s : State) : State :=
  { State.resetWith s.params (s.epoch + 1) with pending := s.pending, readData := s.readData }

/-- One event (log 1). -/
def performEvent (e : Event) (s : State) : Answer :=
  match e with
  | .access a => performAccess a s
  | .reset => .next (platformReset s)
  | .otherHost _ => .refused .secondHost

/-- The events as the machine finds them: the next one and the rest. With none pending the FCE
executes nothing (70_reset_and_hazards.md R272, log 2). -/
def runPending (s : State) : Answer :=
  match s.pending with
  | [] => .next s
  | e :: rest => performEvent e { s with pending := rest }

/-- The host write that issues a command word: a 32-bit write of `CMD` (30_encoding.md R90). -/
def issueEvent (s : State) (w : Word) : Event := .access (.write s.params.codecBase .word w)

end Sys2Proof.Machine
end

