-- ==== Sys2Proof/Machine/Step.lean ====
section
/-! DEFINITION. One step of the machine: the next event of the host (20_memory.md rule R72), and how
a command word is placed before it. -/

namespace Sys2Proof.Machine

open Sys2Proof

/-- One step: the oldest pending event is taken and performed; a step without one changes nothing. -/
def step (s : State) : Host.Outcome State Fault Refusal := runPending s

/-- The state whose next step issues the given command word: the host's write of `CMD` is put before
everything else it will do (10_state.md R21, log 1, log 15). -/
def State.withFetchWord (s : State) (nbits w : Nat) : State :=
  { s with pending := issueEvent s (tableWord nbits w) :: s.pending }

end Sys2Proof.Machine
end

