-- ==== Sys2Proof/Safety.lean ====
section
/-! DEFINITION. What a sound state and a safe run are, and the spec's own tables in the form the
statements use them: the opcode table, the causes of each error, the conditions of admission. -/

namespace Sys2Proof.Machine

open Sys2Proof

/-! ## The invariant -/

/-- A buffer's written bytes: the canonical form, and no byte at or past `BUF_BYTES`
(20_memory.md R61, R77). -/
def BufSound (n : Nat) (m : Memory) : Prop := m.wf ∧ ∀ c ∈ m.cells, c.1 < n

/-- `VERDICT` as 10_state.md R26 allows it: a slot exactly for the classes UDP and TCP, 0xFF
otherwise, a reason exactly for the class DROP. -/
def VerdictSound (nsock : Nat) (v : Verdict) : Prop :=
  (v.cls = .udp ∨ v.cls = .tcp → v.slot.toNat < nsock)
    ∧ (v.cls ≠ .udp → v.cls ≠ .tcp → v.slot = 0xFF#8)
    ∧ (v.cls = .drop ↔ v.reason ≠ .none)

/-- The levels of a parse record are nested and exclusive, and the fields of a level that is not
valid are 0 (42_parse_validate.md R187, 10_state.md R35). -/
structure RecordSound (p : ParseRecord) : Prop where
  l3_l2 : p.l3 = true → p.l2 = true
  udp_l3 : p.udp = true → p.l3 = true
  tcp_l3 : p.tcp = true → p.l3 = true
  icmp_l3 : p.icmp = true → p.l3 = true
  not_udp_tcp : ¬ (p.udp = true ∧ p.tcp = true)
  not_udp_icmp : ¬ (p.udp = true ∧ p.icmp = true)
  not_tcp_icmp : ¬ (p.tcp = true ∧ p.icmp = true)
  no_l2 : p.l2 = false → p.edst = 0#48 ∧ p.esrc = 0#48 ∧ p.etype = 0#16
  no_l3 : p.l3 = false → p.ipw0 = 0#32 ∧ p.ipw1 = 0#32 ∧ p.ipw2 = 0#32 ∧ p.sip = 0#32 ∧ p.dip = 0#32
  no_l4 : p.udp = false → p.tcp = false → p.ports = 0#32 ∧ p.data = 0#32
  no_udp : p.udp = false → p.udpw = 0#32
  no_tcp : p.tcp = false → p.tseq = 0#32 ∧ p.tack = 0#32 ∧ p.tw3 = 0#32 ∧ p.tw4 = 0#32

/-- What every step keeps: legal parameters (00_scope.md R8), a table of `NSOCK` entries
(10_state.md R37), canonical buffers inside `BUF_BYTES`, `RX_LEN` at most `BUF_BYTES`
(10_state.md R33), a `VERDICT` and a parse record the spec allows. -/
structure Inv (s : State) : Prop where
  params : s.params.legal = true
  table : s.socks.length = s.params.nsock
  tx : BufSound s.params.bufBytes s.txbuf
  rx : BufSound s.params.bufBytes s.rxbuf
  rxLen : s.rxLen.toNat ≤ s.params.bufBytes
  verdict : VerdictSound s.params.nsock s.verdict
  record : RecordSound s.pr

/-! ## Safe runs -/

/-- A host access that 20_memory.md R60 and R67 give a meaning. -/
def accessOk (base : Nat) (addr : Nat) (width : Width) : Bool :=
  match locate base addr with
  | some t => accessAllowed t width
  | none => false

/-- An event the spec gives a meaning: an access of R67 by the one host, or a reset. -/
def eventOk (base : Nat) : Event → Bool
  | .access (.read addr width) => accessOk base addr width
  | .access (.write addr width _) => accessOk base addr width
  | .reset => true
  | .otherHost _ => false

/-- A sound state whose host keeps to the accesses of 20_memory.md R67. -/
def Safe (s : State) : Prop := Inv s ∧ ∀ e ∈ s.pending, eventOk s.params.codecBase e = true

/-! ## The opcode table as the spec prints it -/

/-- One row of 30_encoding.md R93. -/
structure TableRow where
  op : Opcode
  code : Word
  matchBits : Word
  mask : Word
deriving DecidableEq, Repr

/-- The thirteen rows of 30_encoding.md R93, copied from its table. -/
def specRows : List TableRow :=
  [⟨.nop, 0x00#32, 0x00000000#32, 0xFFFFFFFF#32⟩,
    ⟨.ethAdd, 0x01#32, 0x00000001#32, 0x0000FFFF#32⟩,
    ⟨.ipAdd, 0x02#32, 0x00000002#32, 0x0000FFFF#32⟩,
    ⟨.udpAdd, 0x03#32, 0x00000003#32, 0x0000FFFF#32⟩,
    ⟨.tcpAdd, 0x04#32, 0x00000004#32, 0x0000FFFF#32⟩,
    ⟨.csum, 0x08#32, 0x00000008#32, 0x0000FEFF#32⟩]
  ++ [⟨.parse, 0x10#32, 0x00000010#32, 0xFFFFFFFF#32⟩,
    ⟨.ipCheck, 0x11#32, 0x00000011#32, 0xFFFFFFFF#32⟩,
    ⟨.udpVerify, 0x12#32, 0x00000012#32, 0xFFFFFFFF#32⟩,
    ⟨.tcpVerify, 0x13#32, 0x00000013#32, 0xFFFFFFFF#32⟩,
    ⟨.dispatch, 0x20#32, 0x00000020#32, 0xFFFFFFFF#32⟩,
    ⟨.sockAlloc, 0x30#32, 0x00000030#32, 0xFFFFFFFF#32⟩,
    ⟨.sockClear, 0x31#32, 0x00000031#32, 0xFFFFE1FF#32⟩]

/-- A word is the command in a row (R93). -/
def TableRow.hits (r : TableRow) (w : Word) : Bool := (w &&& r.mask) == r.matchBits

/-- A word has the opcode of a row (R93). -/
def TableRow.hasOpcode (r : TableRow) (w : Word) : Bool := (w &&& 0xFF#32) == r.code

/-! ## The causes of each error, one by one -/

/-- The `OFF` field as a number (30_encoding.md R95). -/
def wordOff (w : Word) : Nat := (w >>> 16).toNat

/-- Whether the cause of an error code holds of a command word, whatever the other causes say
(60_exceptions.md R241, with the bounds of 41_construct.md R151 to R154, 40_checksum.md R134,
43_dispatch.md R220 and R221). -/
def errorApplies (s : State) (w : Word) : ErrCode → Bool
  | .ok => false
  | .illegal => !specRows.any (fun r => r.hasOpcode w)
  | .reserved => specRows.any (fun r => r.hasOpcode w && !r.hits w)
  | .arg => decide (w &&& 0xFF#32 = 0x30#32) && decide (lowHalf s.a0 = 0#16)
  | .slot =>
    decide (w &&& 0xFF#32 = 0x31#32) && decide (s.params.nsock ≤ ((w >>> 10) &&& 7#32).toNat)
  | .length =>
    (decide (w &&& 0xFF#32 = 0x02#32) && decide (65535 < 20 + ipDlen s))
      || (decide (w &&& 0xFF#32 = 0x03#32) && decide (65535 < 8 + udpDlen s))
      || (decide (w &&& 0xFF#32 = 0x04#32) && decide (65535 < tcpHeaderLen s + tcpDlen s))
  | .range =>
    (decide (w &&& 0xFF#32 = 0x01#32) && decide (s.params.bufBytes < wordOff w + 14))
      || (decide (w &&& 0xFF#32 = 0x02#32) && decide (s.params.bufBytes < wordOff w + 20))
      || (decide (w &&& 0xFF#32 = 0x03#32) && decide (s.params.bufBytes < wordOff w + 8 + udpDlen s))
      || (decide (w &&& 0xFF#32 = 0x04#32)
        && decide (s.params.bufBytes < wordOff w + tcpHeaderLen s + tcpDlen s))
      || (decide (w &&& 0xFF#32 = 0x08#32) && decide (s.params.bufBytes < wordOff w + csumLen s))

/-- The order in which errors are reported (60_exceptions.md R242). -/
def errorOrder : List ErrCode := [.illegal, .reserved, .arg, .slot, .length, .range]

/-- The `ERRCODE` numbers as 60_exceptions.md R241 prints them. -/
def codeNumber : ErrCode → Word
  | .ok => 0x00#32
  | .illegal => 0x01#32
  | .reserved => 0x02#32
  | .range => 0x03#32
  | .length => 0x04#32
  | .arg => 0x05#32
  | .slot => 0x06#32

/-- The state a command error leaves: as before, but for `CMD`, `STATUS` and `RESULT`
(60_exceptions.md R240). -/
def errorState (code : ErrCode) (w : Word) (s : State) : State :=
  { s with cmd := w, status := { errcode := code, sticky := true }, result := 0#32 }

/-- What the words of one row do: a word that matches performs the row's command, a word that has the
opcode but does not match raises `E_RESERVED` (30_encoding.md R90, R93). -/
def RowWords (code matchBits mask : Word) (build : Word → Instr) : Prop :=
  ∀ (w : Word) (s : State),
    (w &&& mask = matchBits → issueCommand w s = exec (build w) { s with cmd := w })
      ∧ (w &&& 0xFF#32 = code → w &&& mask ≠ matchBits →
        issueCommand w s = .next (errorState .reserved w s))

/-- The successful end of a command: `ERRCODE` 0, `STICKY` as it was (10_state.md R24). -/
def okStatus (s : State) : Status := { errcode := .ok, sticky := s.status.sticky }

/-! ## Host events in the words of the register map -/

/-- The host reads a register (20_memory.md R67). -/
def regRead (s : State) (off : Nat) : Event := .access (.read (s.params.codecBase + off) .word)

/-- The host writes a register (20_memory.md R67). -/
def regWrite (s : State) (off : Nat) (v : Word) : Event :=
  .access (.write (s.params.codecBase + off) .word v)

/-- The offset of a buffer's window (20_memory.md R60). -/
def windowBase : Buf → Nat
  | .tx => 0x10000
  | .rx => 0x20000

/-- The host reads at a window offset. -/
def winRead (s : State) (b : Buf) (width : Width) (w : Nat) : Event :=
  .access (.read (s.params.codecBase + (windowBase b + w)) width)

/-- The host writes at a window offset. -/
def winWrite (s : State) (b : Buf) (width : Width) (w : Nat) (v : Word) : Event :=
  .access (.write (s.params.codecBase + (windowBase b + w)) width v)

/-- The offsets that 10_state.md R22, R35 and R37 assign. -/
def AssignedOffset (nsock off : Nat) : Prop :=
  off ∈ [0x000, 0x004, 0x008, 0x00C, 0x010, 0x020, 0x024, 0x028, 0x02C, 0x030, 0x034,
      0x040, 0x044, 0x048, 0x04C, 0x050, 0x054, 0x058, 0x05C]
    ∨ (∃ j, j < 18 ∧ off = 0x080 + 4 * j)
    ∨ ∃ k j, k < nsock ∧ j < 7 ∧ off = 0x100 + 0x20 * k + 4 * j

/-! ## The frame in RXBUF, in the words of the rules -/

/-- The destination MAC is broadcast or local (42_parse_validate.md R190). -/
def MacAccepted (s : State) : Prop :=
  be48 (bufByte .rx s) 0 = 0xFFFFFFFFFFFF#48 ∨ be48 (bufByte .rx s) 0 = s.macHi ++ s.macLo

/-- The destination IP is broadcast or local, or the local IP is unconfigured (R190). -/
def IpAccepted (s : State) : Prop :=
  be32 (bufByte .rx s) 30 = 0xFFFFFFFF#32 ∨ be32 (bufByte .rx s) 30 = s.ipAddr ∨ s.ipAddr = 0#32

/-- All five tests of the admission function `admission` (R190). -/
structure Admitted (s : State) : Prop where
  long : 42 ≤ s.rxLen.toNat
  mac : MacAccepted s
  etype : be16 (bufByte .rx s) 12 = 0x0800#16
  ip : IpAccepted s
  tlen : (be16 (bufByte .rx s) 16).toNat ≤ s.rxLen.toNat

/-- A frame that reaches the protocol demultiplexer of `DISPATCH` (43_dispatch.md R211 to R213): the
data channel, admission, and the IP header residual when `CTRL` asks for it. -/
structure ReachesDemux (s : State) : Prop where
  chan : s.rxChan = s.params.dataChan
  admitted : Admitted s
  ipsum : s.ctrl.ipcsumEn = true →
    csumAdd 0#16 (readRange (bufByte .rx s) 14 20) = 0xFFFF#16
      ∨ csumAdd 0#16 (readRange (bufByte .rx s) 14 20) = 0x0000#16

/-- `udp_ok` of the frame (42_parse_validate.md R184). -/
structure UdpStructure (s : State) : Prop where
  tlen_min : 28 ≤ (be16 (bufByte .rx s) 16).toNat
  fits : 14 + (be16 (bufByte .rx s) 16).toNat ≤ s.rxLen.toNat
  ulen_min : 8 ≤ (be16 (bufByte .rx s) 38).toNat
  ulen_max : (be16 (bufByte .rx s) 38).toNat ≤ (be16 (bufByte .rx s) 16).toNat - 20

/-- The data-offset field of the frame, in words (R185). -/
def frameDoff (s : State) : Nat := (bufByte .rx s 46).toNat / 16

/-- `tcp_ok` of the frame (42_parse_validate.md R185). -/
structure TcpStructure (s : State) : Prop where
  tlen_min : 40 ≤ (be16 (bufByte .rx s) 16).toNat
  fits : 14 + (be16 (bufByte .rx s) 16).toNat ≤ s.rxLen.toNat
  doff_min : 5 ≤ frameDoff s
  doff_max : 20 + 4 * frameDoff s ≤ (be16 (bufByte .rx s) 16).toNat

/-- L3 is valid (42_parse_validate.md R182). -/
def L3Valid (s : State) : Prop := 34 ≤ s.rxLen.toNat ∧ be16 (bufByte .rx s) 12 = 0x0800#16

/-- The one-pass sum of 40_checksum.md R132 over the received segment of `n` bytes at offset 34,
with the addresses of the frame's IP header. -/
def segmentSum (proto : Byte) (n : Nat) (s : State) : Half :=
  csumAdd 0#16 (readRange (bufByte .rx s) 26 8 ++ [0x00#8, proto] ++ putBe16 (BitVec.ofNat 16 n)
    ++ readRange (bufByte .rx s) 34 n)

/-- The residual is one of the two valid ones (40_checksum.md R133). -/
def ValidResidual (r : Half) : Prop := r = 0xFFFF#16 ∨ r = 0x0000#16

/-- `e` is an entry that a UDP datagram for port `port` matches (43_dispatch.md R215). -/
def UdpEntry (port : Half) (e : Sock) : Prop := e.lport ≠ 0#16 ∧ e.kind = .datagram ∧ e.lport = port

/-- `e` is a TCP entry on `port` bound to the remote endpoint (43_dispatch.md R216). -/
def TcpBound (port : Half) (rip : Word) (rport : Half) (e : Sock) : Prop :=
  e.lport ≠ 0#16 ∧ e.kind = .stream ∧ e.rbound = true ∧ e.lport = port ∧ e.rip = rip
    ∧ e.rport = rport

/-- `e` is a TCP listener on `port` (43_dispatch.md R216). -/
def TcpListener (port : Half) (e : Sock) : Prop :=
  e.lport ≠ 0#16 ∧ e.kind = .stream ∧ e.rbound = false ∧ e.lport = port

/-- `k` is the first index of the table whose entry has the property. -/
def FirstAt (s : State) (P : Sock → Prop) (k : Nat) : Prop :=
  k < s.socks.length ∧ P (sockAt s k) ∧ ∀ j, j < k → ¬ P (sockAt s j)

/-- No entry of the table has the property. -/
def NoEntry (s : State) (P : Sock → Prop) : Prop := ∀ j, j < s.socks.length → ¬ P (sockAt s j)

end Sys2Proof.Machine
end

