-- ==== Sys2Proof/Certificates/Slice0/Obligations.lean ====
section
/-! DEFINITION. The statements for the provers. Each is a `Prop` named for what it states. A rule of
spec/ is named by its number; what rests on a choice of the model names its log entry. In every
statement about host accesses the access is the oldest event of `pending` and the value a read returns
is `readData`: that form is the model's (logs 1 and 14), the effect is the rule's. -/

open Sys2Proof Sys2Proof.Machine

/-! ## Encoding -/

/-- Decoding the encoded word of a well-formed command gives the command back, with every operand at
every value its field admits (30_encoding.md R91, R93, R95, R99). -/
def Obligations.DecodeOfEncodedCommand : Prop :=
  ∀ i : Instr, WellFormed i = true → decode (encode i) = .ok i

/-- A word that decodes is the one word of its command, and the command is well formed: no bit of a
legal word is dropped (30_encoding.md R92, R93). -/
def Obligations.EncodeOfDecodedWord : Prop :=
  ∀ (w : Word) (i : Instr), decode w = .ok i → WellFormed i = true ∧ encode i = w

/-- 30_encoding.md R93, with the table's thirteen rows: a word is the command in a row exactly when
`(w AND mask) = match`; at most one row matches; an assigned opcode that matches no row raises
`E_RESERVED`, an unassigned opcode `E_ILLEGAL`. -/
def Obligations.CommandRowsByMaskAndMatch : Prop :=
  ∀ w : Word,
    (∀ r ∈ specRows, r.hits w = true ↔ ∃ i, decode w = .ok i ∧ opcodeOfInstr i = r.op)
      ∧ (specRows.filter (fun r => r.hits w)).length ≤ 1
      ∧ (∀ s : State, specRows.any (fun r => r.hits w) = false →
        specRows.any (fun r => r.hasOpcode w) = true →
        issueCommand w s = .next (errorState .reserved w s))
      ∧ (∀ s : State, specRows.any (fun r => r.hasOpcode w) = false →
        issueCommand w s = .next (errorState .illegal w s))

/-- Words of every family, written out from 30_encoding.md R93 and R99 and 95_test_vectors.md, decode to
the commands they stand for. -/
def Obligations.WrittenWordsDecode : Prop :=
  decode 0x00000000#32 = .ok .nop
    ∧ decode 0x000E0002#32 = .ok (.ipAdd 14)
    ∧ decode 0x07F70003#32 = .ok (.udpAdd 2039)
    ∧ decode 0x000E0108#32 = .ok (.csum 14 .rx)
    ∧ decode 0x00000012#32 = .ok .udpVerify
    ∧ decode 0x00000020#32 = .ok .dispatch
    ∧ decode 0x00000431#32 = .ok (.sockClear 1 .template)
    ∧ decode 0x00000231#32 = .ok (.sockClear 0 .free)
    ∧ decode 0x00000005#32 = .error .illegal
    ∧ decode 0x00011C31#32 = .error .reserved

/-! ## The step -/

/-- When the host's next access is a 32-bit write of a word to `CMD`, the step takes that access,
stores the word in `CMD` and is `exec` of the decoded command there; a word that is no command is
stored and reported as its error (10_state.md R23, 30_encoding.md R90; the queue of host events is the
model's, log 1). -/
def Obligations.StepRunsTheDecodedCommand : Prop :=
  ∀ (s : State) (w : Word) (rest : List Event), s.pending = regWrite s 0 w :: rest →
    (∀ i, decode w = .ok i → step s = exec i { s with pending := rest, cmd := w })
      ∧ (decode w = .error .illegal →
        step s = .next (errorState .illegal w { s with pending := rest }))
      ∧ (decode w = .error .reserved →
        step s = .next (errorState .reserved w { s with pending := rest }))

/-- With no host event pending a step changes nothing: "The FCE executes nothing until the host writes
`CMD`" (70_reset_and_hazards.md R272). That such a step answers a next state is the model's choice (log 2). -/
def Obligations.IdleStepChangesNothing : Prop :=
  ∀ s : State, s.pending = [] → step s = .next s

/-- 70_reset_and_hazards.md R270 and R271: a platform reset gives every register the reset value of its
table, empties the port table, leaves every buffer byte at a free value, and performs no command. That
the parameters and the host's own fields stay is the model's choice (log 4). -/
def Obligations.PlatformResetRestoresRegisters : Prop :=
  ∀ (s : State) (rest : List Event), s.pending = .reset :: rest →
    ∃ t, step s = .next t
      ∧ (∀ r ∈ [Reg.cmd, .status, .result, .ctrl, .a0, .a1, .a2, .a3, .a4, .a5, .macHi, .macLo,
          .ipAddr, .ipIdent, .rxLen, .rxChan], readReg t r = 0#32)
      ∧ readReg t .verdict = 0x0000FF00#32
      ∧ readReg t .ipTtl = 0x40#32
      ∧ readReg t .tcpMss = 0x05B4#32
      ∧ (∀ p : PrReg, readReg t (.pr p) = 0#32)
      ∧ (∀ k w, readReg t (.sock k w) = 0#32)
      ∧ t.socks.length = s.params.nsock
      ∧ (∀ b a, bufByte b t a = Config.resetByte (s.epoch + 1) b a)
      ∧ t.params = s.params ∧ t.pending = rest

/-- The state after power-on reset meets the invariant. -/
def Obligations.ResetStateIsSound : Prop := Inv State.reset

/-- Every step keeps the invariant, from every state that meets it: legal parameters, a table of
`NSOCK` entries, buffers in canonical form and inside `BUF_BYTES`, `RX_LEN` at most `BUF_BYTES`
(10_state.md R33), a `VERDICT` that 10_state.md R26 allows, parse levels nested and exclusive
(42_parse_validate.md R187). -/
def Obligations.StepKeepsInvariant : Prop :=
  ∀ s t : State, Inv s → step s = .next t → Inv t

/-- A host that keeps to the accesses of 20_memory.md R67 never stops the machine, however long it runs:
the FCE has no stuck or halted state (60_exceptions.md R240, R243). -/
def Obligations.SafeRunsNeverStop : Prop :=
  ∀ (k : Nat) (s : State), Safe s → ∃ t, Host.Core.run Sys2Proof.core k s = .next t ∧ Safe t

/-- Exactly the accesses outside 20_memory.md R60 and R67 stop: outside the address space a fault
(log 7), a sub-word or unaligned register access and a misaligned window access a refusal
(93_implementation_defined.md I1, I2); every other access, read or write, answers a next state. -/
def Obligations.AccessStopsExactlyWhenForbidden : Prop :=
  ∀ (s : State) (a : Access) (addr : Nat) (width : Width) (rest : List Event),
    (a = .read addr width ∨ ∃ v, a = .write addr width v) → s.pending = .access a :: rest →
    (addr < s.params.codecBase ∨ s.params.codecBase + 0x30000 ≤ addr →
        step s = .fault .outsideAddressSpace)
      ∧ (s.params.codecBase ≤ addr → addr < s.params.codecBase + 0x10000 →
        (width ≠ .word ∨ (addr - s.params.codecBase) % 4 ≠ 0) →
        step s = .refused .subWordRegisterAccess)
      ∧ (s.params.codecBase ≤ addr → addr < s.params.codecBase + 0x10000 →
        width = .word → (addr - s.params.codecBase) % 4 = 0 → ∃ t, step s = .next t)
      ∧ (s.params.codecBase + 0x10000 ≤ addr → addr < s.params.codecBase + 0x30000 →
        (width = .half ∧ (addr - s.params.codecBase) % 2 ≠ 0
          ∨ width = .word ∧ (addr - s.params.codecBase) % 4 ≠ 0) →
        step s = .refused .misalignedWindowAccess)
      ∧ (s.params.codecBase + 0x10000 ≤ addr → addr < s.params.codecBase + 0x30000 →
        (width = .byte ∨ width = .half ∧ (addr - s.params.codecBase) % 2 = 0
          ∨ width = .word ∧ (addr - s.params.codecBase) % 4 = 0) →
        ∃ t, step s = .next t)

/-- 60_exceptions.md R249: an access by a second host is refused. -/
def Obligations.SecondHostIsRefused : Prop :=
  ∀ (s : State) (a : Access) (rest : List Event), s.pending = .otherHost a :: rest →
    step s = .refused .secondHost

/-- No step changes the implementation parameters of 00_scope.md R8. -/
def Obligations.ParametersNeverChange : Prop :=
  ∀ s t : State, step s = .next t → t.params = s.params

/-! ## The host bus -/

/-- 20_memory.md R68: a read that R67 allows changes nothing of the FCE, and repeating it returns the
same value. -/
def Obligations.ReadsHaveNoSideEffects : Prop :=
  ∀ (s : State) (addr : Nat) (width : Width) (rest : List Event),
    accessOk s.params.codecBase addr width = true →
    s.pending = .access (.read addr width) :: .access (.read addr width) :: rest →
    ∃ v, step s = .next { s with
        pending := .access (.read addr width) :: rest, readData := v }
      ∧ Host.Core.run Sys2Proof.core 2 s = .next { s with pending := rest, readData := v }

/-- A host write to a writable register and a read back: the named bits hold what was written, the
reserved bits read 0 (10_state.md R22, R27 to R32, R34, R41). Every other register, the port table's
words among them, reads as before, and so does all else: such a write has no effect beyond the written
bits (20_memory.md R68). -/
def Obligations.WritableRegistersReadBack : Prop :=
  ∀ p ∈ [(0x010, 0x00000003#32, Reg.ctrl), (0x020, 0xFFFFFFFF#32, .a0), (0x024, 0xFFFFFFFF#32, .a1),
      (0x028, 0xFFFFFFFF#32, .a2), (0x02C, 0xFFFFFFFF#32, .a3), (0x030, 0xFFFFFFFF#32, .a4),
      (0x034, 0xFFFFFFFF#32, .a5), (0x040, 0xFFFFFFFF#32, .macHi), (0x044, 0x0000FFFF#32, .macLo),
      (0x048, 0xFFFFFFFF#32, .ipAddr), (0x04C, 0x0000FFFF#32, .ipIdent),
      (0x050, 0x000000FF#32, .ipTtl), (0x054, 0x0000FFFF#32, .tcpMss),
      (0x05C, 0x000000FF#32, .rxChan)],
    ∀ (s : State) (v : Word) (rest : List Event),
      s.pending = regWrite s p.1 v :: regRead s p.1 :: rest →
      ∃ u, Host.Core.run Sys2Proof.core 2 s = .next u
        ∧ u.readData = v &&& p.2.1 ∧ readReg u p.2.2 = v &&& p.2.1
        ∧ (∀ r, r ≠ p.2.2 → readReg u r = readReg s r)
        ∧ u = { s with
            pending := rest, readData := u.readData, ctrl := u.ctrl, a0 := u.a0, a1 := u.a1,
            a2 := u.a2, a3 := u.a3, a4 := u.a4, a5 := u.a5, macHi := u.macHi, macLo := u.macLo,
            ipAddr := u.ipAddr, ipIdent := u.ipIdent, ipTtl := u.ipTtl, tcpMss := u.tcpMss,
            rxChan := u.rxChan }

/-- 10_state.md R23: whatever word is written to `CMD`, legal or not, a host read returns it after the
command it encodes was performed. -/
def Obligations.CmdReadsBackTheLastWord : Prop :=
  ∀ (s : State) (w : Word) (rest : List Event),
    s.pending = regWrite s 0 w :: regRead s 0 :: rest →
    ∃ u, Host.Core.run Sys2Proof.core 2 s = .next u ∧ u.readData = w ∧ u.cmd = w

/-- 10_state.md R40: an aligned register-space offset that R22 does not assign, the words of an entry
at or past `NSOCK` and the reserved word of an entry among them, reads 0 and ignores writes. -/
def Obligations.UnassignedOffsetsAreInert : Prop :=
  ∀ (s : State) (off : Nat) (v : Word) (rest : List Event),
    off < 0x10000 → off % 4 = 0 → ¬ AssignedOffset s.params.nsock off →
    (s.pending = regRead s off :: rest →
        step s = .next { s with pending := rest, readData := 0#32 })
      ∧ (s.pending = regWrite s off v :: rest → step s = .next { s with pending := rest })

/-- 10_state.md R41: a host write to `RESULT`, `VERDICT` or a parse-result register changes nothing. -/
def Obligations.ReadOnlyRegistersIgnoreWrites : Prop :=
  ∀ (s : State) (off : Nat) (v : Word) (rest : List Event),
    (off = 0x008 ∨ off = 0x00C ∨ ∃ j, j < 18 ∧ off = 0x080 + 4 * j) →
    s.pending = regWrite s off v :: rest → step s = .next { s with pending := rest }

/-- 10_state.md R24: a host write to `STATUS` clears `STICKY` when bit 8 is 1 and changes nothing
otherwise; `ERRCODE` ignores it. -/
def Obligations.StatusWriteClearsSticky : Prop :=
  ∀ (s : State) (v : Word) (rest : List Event), s.pending = regWrite s 4 v :: rest →
    (v &&& 0x100#32 = 0x100#32 → step s = .next { s with
        pending := rest, status := { errcode := s.status.errcode, sticky := false } })
      ∧ (v &&& 0x100#32 = 0#32 → step s = .next { s with pending := rest })

/-- 10_state.md R33: a host write of v to `RX_LEN` stores `min(v[15:0], BUF_BYTES)`, reads back so with
bits 31:16 zero, and clears `RXPEND` of every entry; nothing else changes; reset leaves 0. -/
def Obligations.RxLenWriteClampsAndClearsRxpend : Prop :=
  (∀ (s : State) (v : Word) (rest : List Event), s.pending = regWrite s 0x058 v :: rest →
    ∃ t, step s = .next t
      ∧ t.rxLen.toNat = min (v.toNat % 65536) s.params.bufBytes
      ∧ (readReg t .rxLen).toNat = min (v.toNat % 65536) s.params.bufBytes
      ∧ t.socks.length = s.socks.length
      ∧ (∀ k, sockAt t k = { sockAt s k with rxpend := false })
      ∧ t = { s with pending := rest, rxLen := t.rxLen, socks := t.socks })
    ∧ ∀ p e, (State.resetWith p e).rxLen = 0#16

/-- 10_state.md R37, R40 and R41: each word of a port-table entry reads back what the host wrote in its
named bits and 0 elsewhere (the reserved word reads 0), and no other word or entry changes. -/
def Obligations.PortTableWordsReadBack : Prop :=
  ∀ p ∈ [(0x00, 0x0007FFFF#32), (0x04, 0x0000FFFF#32), (0x08, 0xFFFFFFFF#32),
      (0x0C, 0xFFFFFFFF#32), (0x10, 0x0000FFFF#32), (0x14, 0x0000FFFF#32),
      (0x18, 0x0000FFFF#32), (0x1C, 0x00000000#32)],
    ∀ (s : State) (k : Nat) (v : Word) (rest : List Event),
      s.params.nsock ≤ 8 → s.socks.length = s.params.nsock → k < s.params.nsock →
      s.pending = regWrite s (0x100 + 0x20 * k + p.1) v
        :: regRead s (0x100 + 0x20 * k + p.1) :: rest →
      ∃ u, Host.Core.run Sys2Proof.core 2 s = .next u
        ∧ u.readData = v &&& p.2
        ∧ (∀ w, sockWordAt p.1 ≠ some w → readSock (sockAt u k) w = readSock (sockAt s k) w)
        ∧ (∀ j, j ≠ k → sockAt u j = sockAt s j)
        ∧ u = { s with pending := rest, readData := u.readData, socks := u.socks }

/-- 20_memory.md R61: a byte access at window offset w reaches buffer byte w exactly when
`w < BUF_BYTES`; past it a read returns 0 and a write is ignored. -/
def Obligations.WindowBytesReachTheBuffer : Prop :=
  ∀ (s : State) (b : Buf) (w : Nat) (v : Word) (rest : List Event), w < 0x10000 →
    (s.pending = winRead s b .byte w :: rest → ∃ t, step s = .next t
        ∧ t = { s with pending := rest, readData := t.readData }
        ∧ (w < s.params.bufBytes → t.readData = (bufByte b s w).setWidth 32)
        ∧ (s.params.bufBytes ≤ w → t.readData = 0#32))
      ∧ (s.pending = winWrite s b .byte w v :: rest → ∃ t, step s = .next t
        ∧ (w < s.params.bufBytes → bufByte b t w = v.extractLsb' 0 8)
        ∧ (∀ c a, (c ≠ b ∨ a ≠ w) → bufByte c t a = bufByte c s a)
        ∧ (s.params.bufBytes ≤ w → t = { s with pending := rest })
        ∧ t = { s with pending := rest, txbuf := t.txbuf, rxbuf := t.rxbuf })

/-- 20_memory.md R61 and R65: an aligned 16- or 32-bit window access moves the byte at the lowest offset
in bits 7:0, in both directions, so a byte read after a wider write returns the lane of that byte. At
and past `BUF_BYTES` a read gives 0 and a write is ignored. That an access across `BUF_BYTES` is treated
byte by byte is read from the two rules together (log 13). -/
def Obligations.WindowLanesAreLittleEndian : Prop :=
  ∀ p ∈ [(Width.half, 2), (Width.word, 4)],
    ∀ (s : State) (b : Buf) (w : Nat) (v : Word) (rest : List Event),
      w < 0x10000 → w % p.2 = 0 →
      (s.pending = winRead s b p.1 w :: rest → ∃ t, step s = .next t
          ∧ t = { s with pending := rest, readData := t.readData }
          ∧ (∀ i, i < p.2 → w + i < s.params.bufBytes →
            t.readData.extractLsb' (8 * i) 8 = bufByte b s (w + i))
          ∧ (∀ i, i < 4 → p.2 ≤ i ∨ s.params.bufBytes ≤ w + i →
            t.readData.extractLsb' (8 * i) 8 = 0#8))
        ∧ (s.pending = winWrite s b p.1 w v :: rest → ∃ t, step s = .next t
          ∧ (∀ i, i < p.2 → w + i < s.params.bufBytes →
            bufByte b t (w + i) = v.extractLsb' (8 * i) 8)
          ∧ (∀ c a, (c ≠ b ∨ a < w ∨ w + p.2 ≤ a ∨ s.params.bufBytes ≤ a) →
            bufByte c t a = bufByte c s a)
          ∧ (s.params.bufBytes ≤ w → t = { s with pending := rest })
          ∧ t = { s with pending := rest, txbuf := t.txbuf, rxbuf := t.rxbuf })

/-! ## The checksum engine -/

/-- The running sum is the ordinary sum of the big-endian words modulo 0xFFFF; a last byte of an odd
sequence is the HIGH byte of a word whose low byte is 0 (40_checksum.md R130). -/
def Obligations.SumIsOrdinarySumModulo65535 : Prop :=
  ∀ (ws : List Half) (init : Half),
    (csumAdd init (ws.flatMap putBe16)).toNat % 65535
        = (init.toNat + (ws.map BitVec.toNat).sum) % 65535
      ∧ ∀ last : Byte, (csumAdd init (ws.flatMap putBe16 ++ [last])).toNat % 65535
        = (init.toNat + (ws.map BitVec.toNat).sum + 256 * last.toNat) % 65535

/-- `csum_add` returns 0x0000 only when `init` and every byte are zero (40_checksum.md R130). -/
def Obligations.ZeroSumOnlyFromZeros : Prop :=
  ∀ (init : Half) (bs : List Byte),
    csumAdd init bs = 0#16 ↔ init = 0#16 ∧ ∀ b ∈ bs, b = 0#8

/-- 40_checksum.md R135 item 5: a running sum in two pieces is the sum in one pass when the first piece
has even length. -/
def Obligations.EvenPiecesChain : Prop :=
  ∀ (init : Half) (xs ys : List Byte), xs.length % 2 = 0 →
    csumAdd (csumAdd init xs) ys = csumAdd init (xs ++ ys)

/-- 40_checksum.md R135 item 2: the sum over whole words does not depend on their order. -/
def Obligations.WordOrderDoesNotMatter : Prop :=
  ∀ (init : Half) (ws vs : List Half), ws.Perm vs →
    csumAdd init (ws.flatMap putBe16) = csumAdd init (vs.flatMap putBe16)

/-- 40_checksum.md R135 item 3 and R131: a generated field embedded at an even offset always verifies
with residual 0xFFFF. -/
def Obligations.EmbeddedFieldVerifies : Prop :=
  ∀ xs ys : List Byte, xs.length % 2 = 0 →
    csumAdd 0#16
      (xs ++ putBe16 (checksumField (csumAdd 0#16 (xs ++ [0#8, 0#8] ++ ys))) ++ ys) = 0xFFFF#16

/-- 40_checksum.md R134, `CSUM`: its words, its result over the selected buffer when the range fits
`BUF_BYTES`, `E_RANGE` when it does not. Nothing but `RESULT` and `STATUS` changes. -/
def Obligations.CsumSumsTheRange : Prop :=
  RowWords 0x08#32 0x00000008#32 0x0000FEFF#32
      (fun w => .csum (w >>> 16).toNat (if w &&& 0x100#32 = 0#32 then .tx else .rx))
    ∧ ∀ (s : State) (off : Nat) (b : Buf),
      (off + (lowHalf s.a1).toNat ≤ s.params.bufBytes → exec (.csum off b) s = .next { s with
          result := (0#16) ++ csumAdd (lowHalf s.a0) (readRange (bufByte b s) off (lowHalf s.a1).toNat)
          status := okStatus s })
        ∧ (s.params.bufBytes < off + (lowHalf s.a1).toNat →
          exec (.csum off b) s = .next (errorState .range s.cmd s))

/-! ## Header construction -/

/-- 41_construct.md R150, `NOP`: its one word; `RESULT` and `ERRCODE` are 0, `STICKY` and everything
else stay. -/
def Obligations.NopWritesResultAndErrcodeOnly : Prop :=
  RowWords 0x00#32 0x00000000#32 0xFFFFFFFF#32 (fun _ => .nop)
    ∧ ∀ s : State, exec .nop s = .next { s with result := 0#32, status := okStatus s }

/-- 41_construct.md R151, `ETH_ADD`: its words; the destination MAC, the local MAC and the type stand
big-endian at `OFF`, every other byte and every other register is as before; `E_RANGE` past the buffer. -/
def Obligations.EthAddWritesTheHeader : Prop :=
  RowWords 0x01#32 0x00000001#32 0x0000FFFF#32 (fun w => .ethAdd (w >>> 16).toNat)
    ∧ ∀ (s : State) (off : Nat),
      (off + 14 ≤ s.params.bufBytes → ∃ t, exec (.ethAdd off) s = .next t
          ∧ be48 (bufByte .tx t) off = s.a0 ++ lowHalf s.a1
          ∧ be48 (bufByte .tx t) (off + 6) = s.macHi ++ s.macLo
          ∧ be16 (bufByte .tx t) (off + 12) = highHalf s.a1
          ∧ (∀ a, a < off ∨ off + 14 ≤ a → bufByte .tx t a = bufByte .tx s a)
          ∧ t = { s with txbuf := t.txbuf, result := 14#32, status := okStatus s })
        ∧ (s.params.bufBytes < off + 14 → exec (.ethAdd off) s = .next (errorState .range s.cmd s))

/-- 41_construct.md R152, `IP_ADD`: its words; every field of the 20-byte header, the checksum over the
header with its field zero, `IP_IDENT` used and then advanced modulo 2^16; `E_LENGTH` before `E_RANGE`,
with nothing advanced. -/
def Obligations.IpAddWritesTheHeader : Prop :=
  RowWords 0x02#32 0x00000002#32 0x0000FFFF#32 (fun w => .ipAdd (w >>> 16).toNat)
    ∧ ∀ (s : State) (off : Nat),
      (20 + (highHalf s.a1).toNat ≤ 65535 → off + 20 ≤ s.params.bufBytes →
          ∃ t, exec (.ipAdd off) s = .next t
          ∧ be16 (bufByte .tx t) off = 0x4500#16
          ∧ (be16 (bufByte .tx t) (off + 2)).toNat = 20 + (highHalf s.a1).toNat
          ∧ be16 (bufByte .tx t) (off + 4) = s.ipIdent
          ∧ be16 (bufByte .tx t) (off + 6) = 0x0000#16
          ∧ bufByte .tx t (off + 8) = s.ipTtl
          ∧ bufByte .tx t (off + 9) = lowByte s.a1
          ∧ be16 (bufByte .tx t) (off + 10)
            = ~~~ csumAdd 0#16 (readRange (bufByte .tx t) off 10 ++ [0#8, 0#8]
                ++ readRange (bufByte .tx t) (off + 12) 8)
          ∧ be32 (bufByte .tx t) (off + 12) = s.ipAddr
          ∧ be32 (bufByte .tx t) (off + 16) = s.a0
          ∧ t.ipIdent.toNat = (s.ipIdent.toNat + 1) % 65536
          ∧ (∀ a, a < off ∨ off + 20 ≤ a → bufByte .tx t a = bufByte .tx s a)
          ∧ t = { s with
              txbuf := t.txbuf, ipIdent := t.ipIdent, result := 20#32, status := okStatus s })
        ∧ (65535 < 20 + (highHalf s.a1).toNat →
          exec (.ipAdd off) s = .next (errorState .length s.cmd s))
        ∧ (20 + (highHalf s.a1).toNat ≤ 65535 → s.params.bufBytes < off + 20 →
          exec (.ipAdd off) s = .next (errorState .range s.cmd s))

/-- 41_construct.md R153, `UDP_ADD`: its words; ports and length of the 8-byte header, the checksum over
pseudo-header, header with its field zero and the payload already in `TXBUF`; every byte outside the
header is as before; `E_LENGTH` before `E_RANGE`. -/
def Obligations.UdpAddWritesTheHeader : Prop :=
  RowWords 0x03#32 0x00000003#32 0x0000FFFF#32 (fun w => .udpAdd (w >>> 16).toNat)
    ∧ ∀ (s : State) (off n : Nat), n = (lowHalf s.a2).toNat →
      (8 + n ≤ 65535 → off + 8 + n ≤ s.params.bufBytes → ∃ t, exec (.udpAdd off) s = .next t
          ∧ be16 (bufByte .tx t) off = lowHalf s.a1
          ∧ be16 (bufByte .tx t) (off + 2) = highHalf s.a1
          ∧ (be16 (bufByte .tx t) (off + 4)).toNat = 8 + n
          ∧ be16 (bufByte .tx t) (off + 6)
            = ~~~ csumAdd 0#16 (putBe32 s.ipAddr ++ putBe32 s.a0 ++ [0x00#8, 17#8]
                ++ putBe16 (BitVec.ofNat 16 (8 + n)) ++ readRange (bufByte .tx t) off 6
                ++ [0#8, 0#8] ++ readRange (bufByte .tx s) (off + 8) n)
          ∧ (∀ a, a < off ∨ off + 8 ≤ a → bufByte .tx t a = bufByte .tx s a)
          ∧ t = { s with txbuf := t.txbuf, result := 8#32, status := okStatus s })
        ∧ (65535 < 8 + n → exec (.udpAdd off) s = .next (errorState .length s.cmd s))
        ∧ (8 + n ≤ 65535 → s.params.bufBytes < off + 8 + n →
          exec (.udpAdd off) s = .next (errorState .range s.cmd s))

/-- 41_construct.md R154, `TCP_ADD`: its words; every field of the 20-byte header, or of the 24-byte
header with the MSS option when FLAGS bit 1 (SYN) is set, the checksum over pseudo-header, header with
its field zero and the payload; every byte outside the header is as before; `E_LENGTH` before
`E_RANGE`. -/
def Obligations.TcpAddWritesTheHeader : Prop :=
  RowWords 0x04#32 0x00000004#32 0x0000FFFF#32 (fun w => .tcpAdd (w >>> 16).toNat)
    ∧ ∀ (s : State) (off h n : Nat), n = (lowHalf s.a5).toNat →
      h = (if s.a4 &&& 2#32 = 2#32 then 24 else 20) →
      (h + n ≤ 65535 → off + h + n ≤ s.params.bufBytes → ∃ t, exec (.tcpAdd off) s = .next t
          ∧ be16 (bufByte .tx t) off = lowHalf s.a1
          ∧ be16 (bufByte .tx t) (off + 2) = highHalf s.a1
          ∧ be32 (bufByte .tx t) (off + 4) = s.a2
          ∧ be32 (bufByte .tx t) (off + 8) = s.a3
          ∧ bufByte .tx t (off + 12) = (if h = 24 then 0x60#8 else 0x50#8)
          ∧ bufByte .tx t (off + 13) = lowByte s.a4
          ∧ be16 (bufByte .tx t) (off + 14) = highHalf s.a4
          ∧ be16 (bufByte .tx t) (off + 16)
            = ~~~ csumAdd 0#16 (putBe32 s.ipAddr ++ putBe32 s.a0 ++ [0x00#8, 6#8]
                ++ putBe16 (BitVec.ofNat 16 (h + n)) ++ readRange (bufByte .tx t) off 16
                ++ [0#8, 0#8] ++ readRange (bufByte .tx t) (off + 18) (h - 18)
                ++ readRange (bufByte .tx s) (off + h) n)
          ∧ be16 (bufByte .tx t) (off + 18) = 0x0000#16
          ∧ (h = 24 → be16 (bufByte .tx t) (off + 20) = 0x0204#16
            ∧ be16 (bufByte .tx t) (off + 22) = s.tcpMss)
          ∧ (∀ a, a < off ∨ off + h ≤ a → bufByte .tx t a = bufByte .tx s a)
          ∧ t = { s with
              txbuf := t.txbuf, result := BitVec.ofNat 32 h, status := okStatus s })
        ∧ (65535 < h + n → exec (.tcpAdd off) s = .next (errorState .length s.cmd s))
        ∧ (h + n ≤ 65535 → s.params.bufBytes < off + h + n →
          exec (.tcpAdd off) s = .next (errorState .range s.cmd s))

/-- The FCE's own checksum fields always verify with residual 0xFFFF, read back from `TXBUF` after
`IP_ADD`, `UDP_ADD` and `TCP_ADD` (40_checksum.md R131 to R133, R135 item 3). -/
def Obligations.BuiltChecksumsVerify : Prop :=
  ∀ (s : State) (off : Nat),
    (20 + ipDlen s ≤ 65535 → off + 20 ≤ s.params.bufBytes →
      ∃ t, exec (.ipAdd off) s = .next t
        ∧ csumAdd 0#16 (readRange (bufByte .tx t) off 20) = 0xFFFF#16)
    ∧ (8 + udpDlen s ≤ 65535 → off + 8 + udpDlen s ≤ s.params.bufBytes →
      ∃ t, exec (.udpAdd off) s = .next t
        ∧ l4sum s.ipAddr s.a0 17#8 (readRange (bufByte .tx t) off (8 + udpDlen s)) = 0xFFFF#16)
    ∧ (tcpHeaderLen s + tcpDlen s ≤ 65535 → off + tcpHeaderLen s + tcpDlen s ≤ s.params.bufBytes →
      ∃ t, exec (.tcpAdd off) s = .next t
        ∧ l4sum s.ipAddr s.a0 6#8 (readRange (bufByte .tx t) off (tcpHeaderLen s + tcpDlen s))
          = 0xFFFF#16)

/-! ## Parsing, admission and validation -/

/-- 42_parse_validate.md R181, R182, R184 to R186, `PARSE`: its one word; which levels are valid, what
each parse-result register holds, `RESULT` is `PR_VALID`, and nothing else changes. -/
def Obligations.ParseFillsTheRegisters : Prop :=
  RowWords 0x10#32 0x00000010#32 0xFFFFFFFF#32 (fun _ => .parse)
    ∧ ∀ s : State, ∃ t, exec .parse s = .next t
      ∧ t = { s with pr := t.pr, result := readReg t (.pr .valid), status := okStatus s }
      ∧ t.result.toNat = t.pr.l2.toNat + 2 * t.pr.l3.toNat + 4 * t.pr.udp.toNat
          + 8 * t.pr.tcp.toNat + 16 * t.pr.icmp.toNat
      ∧ (t.pr.l2 = true ↔ 14 ≤ s.rxLen.toNat)
      ∧ (t.pr.l3 = true ↔ L3Valid s)
      ∧ (t.pr.udp = true ↔ L3Valid s ∧ bufByte .rx s 23 = 17#8 ∧ UdpStructure s)
      ∧ (t.pr.tcp = true ↔ L3Valid s ∧ bufByte .rx s 23 = 6#8 ∧ TcpStructure s)
      ∧ (t.pr.icmp = true ↔ L3Valid s ∧ bufByte .rx s 23 = 1#8)
      ∧ (t.pr.l2 = true → readReg t (.pr .edstHi) = be32 (bufByte .rx s) 0
        ∧ readReg t (.pr .edstLo) = (0#16) ++ be16 (bufByte .rx s) 4
        ∧ readReg t (.pr .esrcHi) = be32 (bufByte .rx s) 6
        ∧ readReg t (.pr .esrcLo) = (0#16) ++ be16 (bufByte .rx s) 10
        ∧ readReg t (.pr .etype) = (0#16) ++ be16 (bufByte .rx s) 12)
      ∧ (t.pr.l3 = true → readReg t (.pr .ipw0) = be32 (bufByte .rx s) 14
        ∧ readReg t (.pr .ipw1) = be32 (bufByte .rx s) 18
        ∧ readReg t (.pr .ipw2) = be32 (bufByte .rx s) 22
        ∧ readReg t (.pr .sip) = be32 (bufByte .rx s) 26
        ∧ readReg t (.pr .dip) = be32 (bufByte .rx s) 30)
      ∧ (t.pr.udp = true → readReg t (.pr .ports) = be32 (bufByte .rx s) 34
        ∧ readReg t (.pr .udp) = be32 (bufByte .rx s) 38
        ∧ readReg t (.pr .data)
          = (42#16) ++ BitVec.ofNat 16 ((be16 (bufByte .rx s) 38).toNat - 8))
      ∧ (t.pr.tcp = true → readReg t (.pr .ports) = be32 (bufByte .rx s) 34
        ∧ readReg t (.pr .tseq) = be32 (bufByte .rx s) 38
        ∧ readReg t (.pr .tack) = be32 (bufByte .rx s) 42
        ∧ readReg t (.pr .tw3) = be32 (bufByte .rx s) 46
        ∧ readReg t (.pr .tw4) = be32 (bufByte .rx s) 50
        ∧ readReg t (.pr .data) = BitVec.ofNat 16 (34 + 4 * frameDoff s)
          ++ BitVec.ofNat 16 ((be16 (bufByte .rx s) 16).toNat - 20 - 4 * frameDoff s))
      ∧ RecordSound t.pr

/-- 42_parse_validate.md R187: after `PARSE` or `DISPATCH` the levels UDP, TCP and ICMP exclude one
another, bits 2 to 4 are set only with bit 1 and bit 1 only with bit 0, every field of a level that is
not valid is 0, and `PR_DATA` is 0 unless bit 2 or bit 3 is set. -/
def Obligations.ParseLevelsNestAndExclude : Prop :=
  ∀ i ∈ [Instr.parse, .dispatch], ∀ s : State, ∃ t, exec i s = .next t ∧ RecordSound t.pr

/-- 42_parse_validate.md R190, `IP_CHECK`: its one word; `RESULT` 1 and `VERDICT` 0x0000FF00 exactly for
an admitted frame, else `RESULT` 0 and `VERDICT` with the first failing reason; no other state changes. -/
def Obligations.IpCheckReportsTheFirstFailure : Prop :=
  RowWords 0x11#32 0x00000011#32 0xFFFFFFFF#32 (fun _ => .ipCheck)
    ∧ ∀ s : State, ∃ t, exec .ipCheck s = .next t
      ∧ t = { s with verdict := t.verdict, result := t.result, status := okStatus s }
      ∧ (Admitted s → t.result = 1#32 ∧ readReg t .verdict = 0x0000FF00#32)
      ∧ (s.rxLen.toNat < 42 → t.result = 0#32 ∧ readReg t .verdict = 0x0002FF01#32)
      ∧ (42 ≤ s.rxLen.toNat → ¬ MacAccepted s →
        t.result = 0#32 ∧ readReg t .verdict = 0x0003FF01#32)
      ∧ (42 ≤ s.rxLen.toNat → MacAccepted s → be16 (bufByte .rx s) 12 ≠ 0x0800#16 →
        t.result = 0#32 ∧ readReg t .verdict = 0x0004FF01#32)
      ∧ (42 ≤ s.rxLen.toNat → MacAccepted s → be16 (bufByte .rx s) 12 = 0x0800#16 →
        ¬ IpAccepted s → t.result = 0#32 ∧ readReg t .verdict = 0x0005FF01#32)
      ∧ (42 ≤ s.rxLen.toNat → MacAccepted s → be16 (bufByte .rx s) 12 = 0x0800#16 →
        IpAccepted s → s.rxLen.toNat < (be16 (bufByte .rx s) 16).toNat →
        t.result = 0#32 ∧ readReg t .verdict = 0x0006FF01#32)

/-- 42_parse_validate.md R192, `UDP_VERIFY`: its one word; 0 for a frame that is not structurally UDP,
else the residual over the pseudo-header and exactly `ulen` bytes, the field as received, with STRUCT 1
and VALID by the residual; `PR_*` and `VERDICT` are unchanged. -/
def Obligations.UdpVerifyReportsTheResidual : Prop :=
  RowWords 0x12#32 0x00000012#32 0xFFFFFFFF#32 (fun _ => .udpVerify)
    ∧ ∀ (s : State) (r : Half), r = segmentSum 17#8 (be16 (bufByte .rx s) 38).toNat s →
      ∃ t, exec .udpVerify s = .next t
      ∧ t = { s with result := t.result, status := okStatus s }
      ∧ (¬ (L3Valid s ∧ bufByte .rx s 23 = 17#8 ∧ UdpStructure s) → t.result = 0#32)
      ∧ (L3Valid s → bufByte .rx s 23 = 17#8 → UdpStructure s →
        (ValidResidual r → t.result = r ++ 0x0003#16)
          ∧ (¬ ValidResidual r → t.result = r ++ 0x0002#16))

/-- 42_parse_validate.md R193, `TCP_VERIFY`: as `UDP_VERIFY`, with the segment length `tlen − 20` from
the IP total length. -/
def Obligations.TcpVerifyReportsTheResidual : Prop :=
  RowWords 0x13#32 0x00000013#32 0xFFFFFFFF#32 (fun _ => .tcpVerify)
    ∧ ∀ (s : State) (r : Half), r = segmentSum 6#8 ((be16 (bufByte .rx s) 16).toNat - 20) s →
      ∃ t, exec .tcpVerify s = .next t
      ∧ t = { s with result := t.result, status := okStatus s }
      ∧ (¬ (L3Valid s ∧ bufByte .rx s 23 = 6#8 ∧ TcpStructure s) → t.result = 0#32)
      ∧ (L3Valid s → bufByte .rx s 23 = 6#8 → TcpStructure s →
        (ValidResidual r → t.result = r ++ 0x0003#16)
          ∧ (¬ ValidResidual r → t.result = r ++ 0x0002#16))

/-- 42_parse_validate.md R180: no receive-side command reads `RXBUF` at or past `RX_LEN`. Two states
whose `RXBUF` agrees below `RX_LEN` and that differ in nothing else give results that differ in nothing
but `RXBUF`. -/
def Obligations.ReceiveSideIgnoresStaleBytes : Prop :=
  ∀ i ∈ [Instr.parse, .ipCheck, .udpVerify, .tcpVerify, .dispatch],
    ∀ (s : State) (m : Memory),
      (∀ a, a < s.rxLen.toNat → bufByte .rx { s with rxbuf := m } a = bufByte .rx s a) →
      ∃ t, exec i s = .next t ∧ exec i { s with rxbuf := m } = .next { t with rxbuf := m }

/-! ## Dispatch and the port table -/

/-- 43_dispatch.md R210, `DISPATCH`: its one word; it writes the parse results as `PARSE` does even for
a dropped frame, `RESULT` is `VERDICT`, the table changes only on a delivery and then only in the entry
that `VERDICT.SLOT` names (in a table that the 8-bit slot can number: `NSOCK` is at most 8, 00_scope.md
R8), and nothing else changes. -/
def Obligations.DispatchWritesParseVerdictAndOneEntry : Prop :=
  RowWords 0x20#32 0x00000020#32 0xFFFFFFFF#32 (fun _ => .dispatch)
    ∧ ∀ s : State, ∃ t u, exec .dispatch s = .next t ∧ exec .parse s = .next u
      ∧ t.pr = u.pr
      ∧ t.result = readReg t .verdict
      ∧ t.socks.length = s.socks.length
      ∧ (s.socks.length ≤ 256 → ∀ j, j ≠ t.verdict.slot.toNat → sockAt t j = sockAt s j)
      ∧ (t.verdict.cls ≠ .udp → t.verdict.cls ≠ .tcp → t.socks = s.socks)
      ∧ t = { s with
          pr := t.pr, verdict := t.verdict, socks := t.socks, result := t.result,
          status := okStatus s }

/-- 43_dispatch.md R211, R212, R213 and the first and last line of R214: the classification before the transport paths, in order: channel,
length, MAC, the non-IP exit, destination IP, total length, the optional IP header checksum, ICMP, an
unknown protocol. None of these delivers. -/
def Obligations.DispatchClassifiesBeforeTransport : Prop :=
  ∀ s : State, ∃ t, exec .dispatch s = .next t
    ∧ (s.rxChan ≠ s.params.dataChan → readReg t .verdict = 0x0001FF01#32 ∧ t.socks = s.socks)
    ∧ (s.rxChan = s.params.dataChan → s.rxLen.toNat < 42 →
      readReg t .verdict = 0x0002FF01#32 ∧ t.socks = s.socks)
    ∧ (s.rxChan = s.params.dataChan → 42 ≤ s.rxLen.toNat → ¬ MacAccepted s →
      readReg t .verdict = 0x0003FF01#32 ∧ t.socks = s.socks)
    ∧ (s.rxChan = s.params.dataChan → 42 ≤ s.rxLen.toNat → MacAccepted s →
      be16 (bufByte .rx s) 12 ≠ 0x0800#16 →
      readReg t .verdict = 0x0000FF02#32 ∧ t.socks = s.socks)
    ∧ (s.rxChan = s.params.dataChan → 42 ≤ s.rxLen.toNat → MacAccepted s →
      be16 (bufByte .rx s) 12 = 0x0800#16 → ¬ IpAccepted s →
      readReg t .verdict = 0x0005FF01#32 ∧ t.socks = s.socks)
    ∧ (s.rxChan = s.params.dataChan → 42 ≤ s.rxLen.toNat → MacAccepted s →
      be16 (bufByte .rx s) 12 = 0x0800#16 → IpAccepted s →
      s.rxLen.toNat < (be16 (bufByte .rx s) 16).toNat →
      readReg t .verdict = 0x0006FF01#32 ∧ t.socks = s.socks)
    ∧ (s.rxChan = s.params.dataChan → Admitted s → s.ctrl.ipcsumEn = true →
      ¬ ValidResidual (csumAdd 0#16 (readRange (bufByte .rx s) 14 20)) →
      readReg t .verdict = 0x000AFF01#32 ∧ t.socks = s.socks)
    ∧ (ReachesDemux s → bufByte .rx s 23 = 1#8 →
      readReg t .verdict = 0x0000FF03#32 ∧ t.socks = s.socks)
    ∧ (ReachesDemux s → bufByte .rx s 23 ≠ 1#8 → bufByte .rx s 23 ≠ 6#8 →
      bufByte .rx s 23 ≠ 17#8 → readReg t .verdict = 0x0007FF01#32 ∧ t.socks = s.socks)

/-- 43_dispatch.md R215, the UDP path: the structural test, the optional checksum, the first entry in
slot order that matches the destination port, and what its delivery records. -/
def Obligations.DispatchDeliversUdpToFirstMatch : Prop :=
  ∀ (s : State) (r : Half), r = segmentSum 17#8 (be16 (bufByte .rx s) 38).toNat s →
    ReachesDemux s → bufByte .rx s 23 = 17#8 → ∃ t, exec .dispatch s = .next t
    ∧ (¬ UdpStructure s → readReg t .verdict = 0x0008FF01#32 ∧ t.socks = s.socks)
    ∧ (UdpStructure s → s.ctrl.l4csumEn = true → ¬ ValidResidual r →
      readReg t .verdict = 0x0009FF01#32 ∧ t.socks = s.socks)
    ∧ (UdpStructure s → (s.ctrl.l4csumEn = true → ValidResidual r) →
      (NoEntry s (UdpEntry (be16 (bufByte .rx s) 36)) →
        readReg t .verdict = 0x0000FF06#32 ∧ t.socks = s.socks)
      ∧ ∀ k, FirstAt s (UdpEntry (be16 (bufByte .rx s) 36)) k →
        t.verdict = { cls := .udp, slot := BitVec.ofNat 8 k, reason := .none }
        ∧ t.socks = s.socks.set k { sockAt s k with
            rmacHi := be32 (bufByte .rx s) 6
            rmacLo := be16 (bufByte .rx s) 10
            rip := be32 (bufByte .rx s) 26
            rport := be16 (bufByte .rx s) 34
            rxoff := 42#16
            rxlen := BitVec.ofNat 16 ((be16 (bufByte .rx s) 38).toNat - 8)
            rxpend := true })

/-- 43_dispatch.md R216, the TCP path: the structural test, the optional checksum, the first entry bound
to the remote endpoint, else the first listener; the delivery writes the descriptor only. -/
def Obligations.DispatchDeliversTcpBoundFirst : Prop :=
  ∀ (s : State) (r : Half) (e : Sock → Sock),
    r = segmentSum 6#8 ((be16 (bufByte .rx s) 16).toNat - 20) s →
    (∀ x, e x = { x with
      rxoff := BitVec.ofNat 16 (34 + 4 * frameDoff s)
      rxlen := BitVec.ofNat 16 ((be16 (bufByte .rx s) 16).toNat - 20 - 4 * frameDoff s)
      rxpend := true }) →
    ReachesDemux s → bufByte .rx s 23 = 6#8 → ∃ t, exec .dispatch s = .next t
    ∧ (¬ TcpStructure s → readReg t .verdict = 0x0008FF01#32 ∧ t.socks = s.socks)
    ∧ (TcpStructure s → s.ctrl.l4csumEn = true → ¬ ValidResidual r →
      readReg t .verdict = 0x0009FF01#32 ∧ t.socks = s.socks)
    ∧ (TcpStructure s → (s.ctrl.l4csumEn = true → ValidResidual r) →
      (∀ k, FirstAt s (TcpBound (be16 (bufByte .rx s) 36) (be32 (bufByte .rx s) 26)
          (be16 (bufByte .rx s) 34)) k →
        t.verdict = { cls := .tcp, slot := BitVec.ofNat 8 k, reason := .none }
        ∧ t.socks = s.socks.set k (e (sockAt s k)))
      ∧ (NoEntry s (TcpBound (be16 (bufByte .rx s) 36) (be32 (bufByte .rx s) 26)
          (be16 (bufByte .rx s) 34)) →
        (∀ k, FirstAt s (TcpListener (be16 (bufByte .rx s) 36)) k →
          t.verdict = { cls := .tcp, slot := BitVec.ofNat 8 k, reason := .none }
          ∧ t.socks = s.socks.set k (e (sockAt s k)))
        ∧ (NoEntry s (TcpListener (be16 (bufByte .rx s) 36)) →
          readReg t .verdict = 0x0000FF07#32 ∧ t.socks = s.socks)))

/-- 43_dispatch.md R210: issuing `DISPATCH` twice on one frame delivers twice, which rewrites the same
entry with the same values: the second command changes nothing. -/
def Obligations.DispatchTwiceIsDispatchOnce : Prop :=
  ∀ s : State, ∃ t, exec .dispatch s = .next t ∧ exec .dispatch t = .next t

/-- 42_parse_validate.md R194: every frame the FCE delivers to a port-table entry lies wholly inside the
received bytes: the recorded descriptor is pending and ends at or before `RX_LEN`. -/
def Obligations.DeliveredPayloadInsideFrame : Prop :=
  ∀ s : State, Inv s → ∃ t, exec .dispatch s = .next t
    ∧ (t.verdict.cls = .udp ∨ t.verdict.cls = .tcp →
      t.verdict.slot.toNat < s.params.nsock
        ∧ (sockAt t t.verdict.slot.toNat).rxpend = true
        ∧ 42 ≤ (sockAt t t.verdict.slot.toNat).rxoff.toNat
        ∧ (sockAt t t.verdict.slot.toNat).rxoff.toNat
            + (sockAt t t.verdict.slot.toNat).rxlen.toNat ≤ s.rxLen.toNat)

/-- 43_dispatch.md R220, `SOCK_ALLOC`: its one word; `E_ARG` for port 0; the first unused entry gets the
port and the kind and every other field 0; a full table answers 0xFFFFFFFF without an error. -/
def Obligations.SockAllocTakesTheFirstUnused : Prop :=
  RowWords 0x30#32 0x00000030#32 0xFFFFFFFF#32 (fun _ => .sockAlloc)
    ∧ ∀ s : State,
      (lowHalf s.a0 = 0#16 → exec .sockAlloc s = .next (errorState .arg s.cmd s))
        ∧ (lowHalf s.a0 ≠ 0#16 → NoEntry s (fun e => e.lport = 0#16) →
          exec .sockAlloc s = .next { s with result := 0xFFFFFFFF#32, status := okStatus s })
        ∧ (lowHalf s.a0 ≠ 0#16 → ∀ k, FirstAt s (fun e => e.lport = 0#16) k →
          exec .sockAlloc s = .next { s with
            socks := s.socks.set k { Sock.empty with
              lport := lowHalf s.a0
              kind := if s.a0 &&& 0x10000#32 = 0#32 then .datagram else .stream }
            result := BitVec.ofNat 32 k
            status := okStatus s })

/-- 43_dispatch.md R221, `SOCK_CLEAR`: its words; template mode keeps port and kind and clears the rest,
free mode clears all; `E_SLOT` for a slot at or past `NSOCK`. -/
def Obligations.SockClearKeepsOnlyTheTemplate : Prop :=
  RowWords 0x31#32 0x00000031#32 0xFFFFE1FF#32
      (fun w => .sockClear ((w >>> 10) &&& 7#32).toNat
        (if w &&& 0x200#32 = 0#32 then .template else .free))
    ∧ ∀ (s : State) (k : Nat),
      (k < s.params.nsock → exec (.sockClear k .template) s = .next { s with
          socks := s.socks.set k
            { Sock.empty with lport := (sockAt s k).lport, kind := (sockAt s k).kind }
          result := BitVec.ofNat 32 k
          status := okStatus s })
        ∧ (k < s.params.nsock → exec (.sockClear k .free) s = .next { s with
          socks := s.socks.set k Sock.empty
          result := BitVec.ofNat 32 k
          status := okStatus s })
        ∧ (s.params.nsock ≤ k → ∀ m,
          exec (.sockClear k m) s = .next (errorState .slot s.cmd s))

/-! ## The whole command set -/

/-- 60_exceptions.md R241 and R242: the code a command reports is the first, in the order `E_ILLEGAL`,
`E_RESERVED`, `E_ARG`, `E_SLOT`, `E_LENGTH`, `E_RANGE`, whose cause holds of the word, and 0 when none
does; it is the number that `STATUS` bits 7:0 read. -/
def Obligations.ReportedErrorIsTheFirstCause : Prop :=
  ∀ (s : State) (w : Word), ∃ t, issueCommand w s = .next t
    ∧ t.status.errcode = (errorOrder.find? (errorApplies s w)).getD .ok
    ∧ readReg t .status &&& 0xFF#32
      = codeNumber ((errorOrder.find? (errorApplies s w)).getD .ok)

/-- 60_exceptions.md R240: a command that ends in an error changes nothing but `CMD`, `STATUS` and
`RESULT`: `STICKY` is 1 and `RESULT` is 0. A command that succeeds leaves `STICKY` as it was
(10_state.md R24). Every word ends in one or the other. -/
def Obligations.ErrorsArePrecise : Prop :=
  ∀ (s : State) (w : Word), ∃ t, issueCommand w s = .next t
    ∧ (t.status.errcode ≠ .ok → t = errorState t.status.errcode w s)
    ∧ (t.status.errcode = .ok → t.status.sticky = s.status.sticky)

/-- Which commands write what (10_state.md R20, R22, R26, R30, R35, R37; 20_memory.md R62): no command
writes an argument register, a configuration register, `RX_LEN`, `RX_CHAN` or `RXBUF`; only `IP_ADD`
advances `IP_IDENT`, only `PARSE` and `DISPATCH` write `PR_*`, only `IP_CHECK` and `DISPATCH` write
`VERDICT`, only the add-header commands write `TXBUF`, only `DISPATCH` and the port-table commands
write the port table. -/
def Obligations.CommandsWriteOnlyTheirOwn : Prop :=
  ∀ (i : Instr) (s : State), ∃ t, exec i s = .next t
    ∧ t = { s with
        status := t.status, result := t.result, verdict := t.verdict, ipIdent := t.ipIdent,
        pr := t.pr, socks := t.socks, txbuf := t.txbuf }
    ∧ (opcodeOfInstr i ≠ .ipAdd → t.ipIdent = s.ipIdent)
    ∧ (opcodeOfInstr i ≠ .parse → opcodeOfInstr i ≠ .dispatch → t.pr = s.pr)
    ∧ (opcodeOfInstr i ≠ .ipCheck → opcodeOfInstr i ≠ .dispatch → t.verdict = s.verdict)
    ∧ (opcodeOfInstr i ∉ [Opcode.ethAdd, .ipAdd, .udpAdd, .tcpAdd] → t.txbuf = s.txbuf)
    ∧ (opcodeOfInstr i ∉ [Opcode.dispatch, .sockAlloc, .sockClear] → t.socks = s.socks)

/-- 60_exceptions.md R252: a dropped frame, a datagram without a match, a rejected admission, a failed
verification and a full port table end with `ERRCODE` 0 and leave `STICKY` unchanged. -/
def Obligations.ProtocolOutcomesAreNotErrors : Prop :=
  (∀ i ∈ [Instr.parse, .ipCheck, .udpVerify, .tcpVerify, .dispatch], ∀ s : State,
      ∃ t, exec i s = .next t ∧ t.status = okStatus s)
    ∧ ∀ s : State, lowHalf s.a0 ≠ 0#16 → NoEntry s (fun e => e.lport = 0#16) →
      ∃ t, exec .sockAlloc s = .next t ∧ t.status = okStatus s ∧ t.result = 0xFFFFFFFF#32
        ∧ t.socks = s.socks
end

