-- ==== Sys2Proof/Laws/State.lean ====
section
/-! SUPPORT. One lemma per field per named update of the state, so that no proof unfolds a record
update. -/

namespace Sys2Proof.Machine

open Sys2Proof

/-! ## `failed` -/

@[simp] theorem failed_params (c : ErrCode) (s : State) :
    (failed c s).params = s.params := rfl
@[simp] theorem failed_cmd (c : ErrCode) (s : State) :
    (failed c s).cmd = s.cmd := rfl
@[simp] theorem failed_status (c : ErrCode) (s : State) :
    (failed c s).status = { errcode := c, sticky := true } := rfl
@[simp] theorem failed_result (c : ErrCode) (s : State) :
    (failed c s).result = 0#32 := rfl
@[simp] theorem failed_verdict (c : ErrCode) (s : State) :
    (failed c s).verdict = s.verdict := rfl
@[simp] theorem failed_ctrl (c : ErrCode) (s : State) :
    (failed c s).ctrl = s.ctrl := rfl
@[simp] theorem failed_a0 (c : ErrCode) (s : State) :
    (failed c s).a0 = s.a0 := rfl
@[simp] theorem failed_a1 (c : ErrCode) (s : State) :
    (failed c s).a1 = s.a1 := rfl
@[simp] theorem failed_a2 (c : ErrCode) (s : State) :
    (failed c s).a2 = s.a2 := rfl
@[simp] theorem failed_a3 (c : ErrCode) (s : State) :
    (failed c s).a3 = s.a3 := rfl
@[simp] theorem failed_a4 (c : ErrCode) (s : State) :
    (failed c s).a4 = s.a4 := rfl
@[simp] theorem failed_a5 (c : ErrCode) (s : State) :
    (failed c s).a5 = s.a5 := rfl
@[simp] theorem failed_macHi (c : ErrCode) (s : State) :
    (failed c s).macHi = s.macHi := rfl
@[simp] theorem failed_macLo (c : ErrCode) (s : State) :
    (failed c s).macLo = s.macLo := rfl
@[simp] theorem failed_ipAddr (c : ErrCode) (s : State) :
    (failed c s).ipAddr = s.ipAddr := rfl
@[simp] theorem failed_ipIdent (c : ErrCode) (s : State) :
    (failed c s).ipIdent = s.ipIdent := rfl
@[simp] theorem failed_ipTtl (c : ErrCode) (s : State) :
    (failed c s).ipTtl = s.ipTtl := rfl
@[simp] theorem failed_tcpMss (c : ErrCode) (s : State) :
    (failed c s).tcpMss = s.tcpMss := rfl
@[simp] theorem failed_rxLen (c : ErrCode) (s : State) :
    (failed c s).rxLen = s.rxLen := rfl
@[simp] theorem failed_rxChan (c : ErrCode) (s : State) :
    (failed c s).rxChan = s.rxChan := rfl
@[simp] theorem failed_pr (c : ErrCode) (s : State) :
    (failed c s).pr = s.pr := rfl
@[simp] theorem failed_socks (c : ErrCode) (s : State) :
    (failed c s).socks = s.socks := rfl
@[simp] theorem failed_txbuf (c : ErrCode) (s : State) :
    (failed c s).txbuf = s.txbuf := rfl
@[simp] theorem failed_rxbuf (c : ErrCode) (s : State) :
    (failed c s).rxbuf = s.rxbuf := rfl
@[simp] theorem failed_epoch (c : ErrCode) (s : State) :
    (failed c s).epoch = s.epoch := rfl
@[simp] theorem failed_pending (c : ErrCode) (s : State) :
    (failed c s).pending = s.pending := rfl
@[simp] theorem failed_readData (c : ErrCode) (s : State) :
    (failed c s).readData = s.readData := rfl

/-! ## `completed` -/

@[simp] theorem completed_params (v : Word) (s : State) :
    (completed v s).params = s.params := rfl
@[simp] theorem completed_cmd (v : Word) (s : State) :
    (completed v s).cmd = s.cmd := rfl
@[simp] theorem completed_status (v : Word) (s : State) :
    (completed v s).status = { errcode := .ok, sticky := s.status.sticky } := rfl
@[simp] theorem completed_result (v : Word) (s : State) :
    (completed v s).result = v := rfl
@[simp] theorem completed_verdict (v : Word) (s : State) :
    (completed v s).verdict = s.verdict := rfl
@[simp] theorem completed_ctrl (v : Word) (s : State) :
    (completed v s).ctrl = s.ctrl := rfl
@[simp] theorem completed_a0 (v : Word) (s : State) :
    (completed v s).a0 = s.a0 := rfl
@[simp] theorem completed_a1 (v : Word) (s : State) :
    (completed v s).a1 = s.a1 := rfl
@[simp] theorem completed_a2 (v : Word) (s : State) :
    (completed v s).a2 = s.a2 := rfl
@[simp] theorem completed_a3 (v : Word) (s : State) :
    (completed v s).a3 = s.a3 := rfl
@[simp] theorem completed_a4 (v : Word) (s : State) :
    (completed v s).a4 = s.a4 := rfl
@[simp] theorem completed_a5 (v : Word) (s : State) :
    (completed v s).a5 = s.a5 := rfl
@[simp] theorem completed_macHi (v : Word) (s : State) :
    (completed v s).macHi = s.macHi := rfl
@[simp] theorem completed_macLo (v : Word) (s : State) :
    (completed v s).macLo = s.macLo := rfl
@[simp] theorem completed_ipAddr (v : Word) (s : State) :
    (completed v s).ipAddr = s.ipAddr := rfl
@[simp] theorem completed_ipIdent (v : Word) (s : State) :
    (completed v s).ipIdent = s.ipIdent := rfl
@[simp] theorem completed_ipTtl (v : Word) (s : State) :
    (completed v s).ipTtl = s.ipTtl := rfl
@[simp] theorem completed_tcpMss (v : Word) (s : State) :
    (completed v s).tcpMss = s.tcpMss := rfl
@[simp] theorem completed_rxLen (v : Word) (s : State) :
    (completed v s).rxLen = s.rxLen := rfl
@[simp] theorem completed_rxChan (v : Word) (s : State) :
    (completed v s).rxChan = s.rxChan := rfl
@[simp] theorem completed_pr (v : Word) (s : State) :
    (completed v s).pr = s.pr := rfl
@[simp] theorem completed_socks (v : Word) (s : State) :
    (completed v s).socks = s.socks := rfl
@[simp] theorem completed_txbuf (v : Word) (s : State) :
    (completed v s).txbuf = s.txbuf := rfl
@[simp] theorem completed_rxbuf (v : Word) (s : State) :
    (completed v s).rxbuf = s.rxbuf := rfl
@[simp] theorem completed_epoch (v : Word) (s : State) :
    (completed v s).epoch = s.epoch := rfl
@[simp] theorem completed_pending (v : Word) (s : State) :
    (completed v s).pending = s.pending := rfl
@[simp] theorem completed_readData (v : Word) (s : State) :
    (completed v s).readData = s.readData := rfl

/-! ## `writeBuf .tx` -/

@[simp] theorem writeBuf_tx_params (off : Nat) (bs : List Byte) (s : State) :
    (writeBuf .tx off bs s).params = s.params := rfl
@[simp] theorem writeBuf_tx_cmd (off : Nat) (bs : List Byte) (s : State) :
    (writeBuf .tx off bs s).cmd = s.cmd := rfl
@[simp] theorem writeBuf_tx_status (off : Nat) (bs : List Byte) (s : State) :
    (writeBuf .tx off bs s).status = s.status := rfl
@[simp] theorem writeBuf_tx_result (off : Nat) (bs : List Byte) (s : State) :
    (writeBuf .tx off bs s).result = s.result := rfl
@[simp] theorem writeBuf_tx_verdict (off : Nat) (bs : List Byte) (s : State) :
    (writeBuf .tx off bs s).verdict = s.verdict := rfl
@[simp] theorem writeBuf_tx_ctrl (off : Nat) (bs : List Byte) (s : State) :
    (writeBuf .tx off bs s).ctrl = s.ctrl := rfl
@[simp] theorem writeBuf_tx_a0 (off : Nat) (bs : List Byte) (s : State) :
    (writeBuf .tx off bs s).a0 = s.a0 := rfl
@[simp] theorem writeBuf_tx_a1 (off : Nat) (bs : List Byte) (s : State) :
    (writeBuf .tx off bs s).a1 = s.a1 := rfl
@[simp] theorem writeBuf_tx_a2 (off : Nat) (bs : List Byte) (s : State) :
    (writeBuf .tx off bs s).a2 = s.a2 := rfl
@[simp] theorem writeBuf_tx_a3 (off : Nat) (bs : List Byte) (s : State) :
    (writeBuf .tx off bs s).a3 = s.a3 := rfl
@[simp] theorem writeBuf_tx_a4 (off : Nat) (bs : List Byte) (s : State) :
    (writeBuf .tx off bs s).a4 = s.a4 := rfl
@[simp] theorem writeBuf_tx_a5 (off : Nat) (bs : List Byte) (s : State) :
    (writeBuf .tx off bs s).a5 = s.a5 := rfl
@[simp] theorem writeBuf_tx_macHi (off : Nat) (bs : List Byte) (s : State) :
    (writeBuf .tx off bs s).macHi = s.macHi := rfl
@[simp] theorem writeBuf_tx_macLo (off : Nat) (bs : List Byte) (s : State) :
    (writeBuf .tx off bs s).macLo = s.macLo := rfl
@[simp] theorem writeBuf_tx_ipAddr (off : Nat) (bs : List Byte) (s : State) :
    (writeBuf .tx off bs s).ipAddr = s.ipAddr := rfl
@[simp] theorem writeBuf_tx_ipIdent (off : Nat) (bs : List Byte) (s : State) :
    (writeBuf .tx off bs s).ipIdent = s.ipIdent := rfl
@[simp] theorem writeBuf_tx_ipTtl (off : Nat) (bs : List Byte) (s : State) :
    (writeBuf .tx off bs s).ipTtl = s.ipTtl := rfl
@[simp] theorem writeBuf_tx_tcpMss (off : Nat) (bs : List Byte) (s : State) :
    (writeBuf .tx off bs s).tcpMss = s.tcpMss := rfl
@[simp] theorem writeBuf_tx_rxLen (off : Nat) (bs : List Byte) (s : State) :
    (writeBuf .tx off bs s).rxLen = s.rxLen := rfl
@[simp] theorem writeBuf_tx_rxChan (off : Nat) (bs : List Byte) (s : State) :
    (writeBuf .tx off bs s).rxChan = s.rxChan := rfl
@[simp] theorem writeBuf_tx_pr (off : Nat) (bs : List Byte) (s : State) :
    (writeBuf .tx off bs s).pr = s.pr := rfl
@[simp] theorem writeBuf_tx_socks (off : Nat) (bs : List Byte) (s : State) :
    (writeBuf .tx off bs s).socks = s.socks := rfl
@[simp] theorem writeBuf_tx_txbuf (off : Nat) (bs : List Byte) (s : State) :
    (writeBuf .tx off bs s).txbuf = s.txbuf.setRange off bs := rfl
@[simp] theorem writeBuf_tx_rxbuf (off : Nat) (bs : List Byte) (s : State) :
    (writeBuf .tx off bs s).rxbuf = s.rxbuf := rfl
@[simp] theorem writeBuf_tx_epoch (off : Nat) (bs : List Byte) (s : State) :
    (writeBuf .tx off bs s).epoch = s.epoch := rfl
@[simp] theorem writeBuf_tx_pending (off : Nat) (bs : List Byte) (s : State) :
    (writeBuf .tx off bs s).pending = s.pending := rfl
@[simp] theorem writeBuf_tx_readData (off : Nat) (bs : List Byte) (s : State) :
    (writeBuf .tx off bs s).readData = s.readData := rfl

/-! ## `writeBuf .rx` -/

@[simp] theorem writeBuf_rx_params (off : Nat) (bs : List Byte) (s : State) :
    (writeBuf .rx off bs s).params = s.params := rfl
@[simp] theorem writeBuf_rx_cmd (off : Nat) (bs : List Byte) (s : State) :
    (writeBuf .rx off bs s).cmd = s.cmd := rfl
@[simp] theorem writeBuf_rx_status (off : Nat) (bs : List Byte) (s : State) :
    (writeBuf .rx off bs s).status = s.status := rfl
@[simp] theorem writeBuf_rx_result (off : Nat) (bs : List Byte) (s : State) :
    (writeBuf .rx off bs s).result = s.result := rfl
@[simp] theorem writeBuf_rx_verdict (off : Nat) (bs : List Byte) (s : State) :
    (writeBuf .rx off bs s).verdict = s.verdict := rfl
@[simp] theorem writeBuf_rx_ctrl (off : Nat) (bs : List Byte) (s : State) :
    (writeBuf .rx off bs s).ctrl = s.ctrl := rfl
@[simp] theorem writeBuf_rx_a0 (off : Nat) (bs : List Byte) (s : State) :
    (writeBuf .rx off bs s).a0 = s.a0 := rfl
@[simp] theorem writeBuf_rx_a1 (off : Nat) (bs : List Byte) (s : State) :
    (writeBuf .rx off bs s).a1 = s.a1 := rfl
@[simp] theorem writeBuf_rx_a2 (off : Nat) (bs : List Byte) (s : State) :
    (writeBuf .rx off bs s).a2 = s.a2 := rfl
@[simp] theorem writeBuf_rx_a3 (off : Nat) (bs : List Byte) (s : State) :
    (writeBuf .rx off bs s).a3 = s.a3 := rfl
@[simp] theorem writeBuf_rx_a4 (off : Nat) (bs : List Byte) (s : State) :
    (writeBuf .rx off bs s).a4 = s.a4 := rfl
@[simp] theorem writeBuf_rx_a5 (off : Nat) (bs : List Byte) (s : State) :
    (writeBuf .rx off bs s).a5 = s.a5 := rfl
@[simp] theorem writeBuf_rx_macHi (off : Nat) (bs : List Byte) (s : State) :
    (writeBuf .rx off bs s).macHi = s.macHi := rfl
@[simp] theorem writeBuf_rx_macLo (off : Nat) (bs : List Byte) (s : State) :
    (writeBuf .rx off bs s).macLo = s.macLo := rfl
@[simp] theorem writeBuf_rx_ipAddr (off : Nat) (bs : List Byte) (s : State) :
    (writeBuf .rx off bs s).ipAddr = s.ipAddr := rfl
@[simp] theorem writeBuf_rx_ipIdent (off : Nat) (bs : List Byte) (s : State) :
    (writeBuf .rx off bs s).ipIdent = s.ipIdent := rfl
@[simp] theorem writeBuf_rx_ipTtl (off : Nat) (bs : List Byte) (s : State) :
    (writeBuf .rx off bs s).ipTtl = s.ipTtl := rfl
@[simp] theorem writeBuf_rx_tcpMss (off : Nat) (bs : List Byte) (s : State) :
    (writeBuf .rx off bs s).tcpMss = s.tcpMss := rfl
@[simp] theorem writeBuf_rx_rxLen (off : Nat) (bs : List Byte) (s : State) :
    (writeBuf .rx off bs s).rxLen = s.rxLen := rfl
@[simp] theorem writeBuf_rx_rxChan (off : Nat) (bs : List Byte) (s : State) :
    (writeBuf .rx off bs s).rxChan = s.rxChan := rfl
@[simp] theorem writeBuf_rx_pr (off : Nat) (bs : List Byte) (s : State) :
    (writeBuf .rx off bs s).pr = s.pr := rfl
@[simp] theorem writeBuf_rx_socks (off : Nat) (bs : List Byte) (s : State) :
    (writeBuf .rx off bs s).socks = s.socks := rfl
@[simp] theorem writeBuf_rx_txbuf (off : Nat) (bs : List Byte) (s : State) :
    (writeBuf .rx off bs s).txbuf = s.txbuf := rfl
@[simp] theorem writeBuf_rx_rxbuf (off : Nat) (bs : List Byte) (s : State) :
    (writeBuf .rx off bs s).rxbuf = s.rxbuf.setRange off bs := rfl
@[simp] theorem writeBuf_rx_epoch (off : Nat) (bs : List Byte) (s : State) :
    (writeBuf .rx off bs s).epoch = s.epoch := rfl
@[simp] theorem writeBuf_rx_pending (off : Nat) (bs : List Byte) (s : State) :
    (writeBuf .rx off bs s).pending = s.pending := rfl
@[simp] theorem writeBuf_rx_readData (off : Nat) (bs : List Byte) (s : State) :
    (writeBuf .rx off bs s).readData = s.readData := rfl

/-! ## `clearSticky` -/

@[simp] theorem clearSticky_params (s : State) :
    (clearSticky s).params = s.params := rfl
@[simp] theorem clearSticky_cmd (s : State) :
    (clearSticky s).cmd = s.cmd := rfl
@[simp] theorem clearSticky_status (s : State) :
    (clearSticky s).status = { errcode := s.status.errcode, sticky := false } := rfl
@[simp] theorem clearSticky_result (s : State) :
    (clearSticky s).result = s.result := rfl
@[simp] theorem clearSticky_verdict (s : State) :
    (clearSticky s).verdict = s.verdict := rfl
@[simp] theorem clearSticky_ctrl (s : State) :
    (clearSticky s).ctrl = s.ctrl := rfl
@[simp] theorem clearSticky_a0 (s : State) :
    (clearSticky s).a0 = s.a0 := rfl
@[simp] theorem clearSticky_a1 (s : State) :
    (clearSticky s).a1 = s.a1 := rfl
@[simp] theorem clearSticky_a2 (s : State) :
    (clearSticky s).a2 = s.a2 := rfl
@[simp] theorem clearSticky_a3 (s : State) :
    (clearSticky s).a3 = s.a3 := rfl
@[simp] theorem clearSticky_a4 (s : State) :
    (clearSticky s).a4 = s.a4 := rfl
@[simp] theorem clearSticky_a5 (s : State) :
    (clearSticky s).a5 = s.a5 := rfl
@[simp] theorem clearSticky_macHi (s : State) :
    (clearSticky s).macHi = s.macHi := rfl
@[simp] theorem clearSticky_macLo (s : State) :
    (clearSticky s).macLo = s.macLo := rfl
@[simp] theorem clearSticky_ipAddr (s : State) :
    (clearSticky s).ipAddr = s.ipAddr := rfl
@[simp] theorem clearSticky_ipIdent (s : State) :
    (clearSticky s).ipIdent = s.ipIdent := rfl
@[simp] theorem clearSticky_ipTtl (s : State) :
    (clearSticky s).ipTtl = s.ipTtl := rfl
@[simp] theorem clearSticky_tcpMss (s : State) :
    (clearSticky s).tcpMss = s.tcpMss := rfl
@[simp] theorem clearSticky_rxLen (s : State) :
    (clearSticky s).rxLen = s.rxLen := rfl
@[simp] theorem clearSticky_rxChan (s : State) :
    (clearSticky s).rxChan = s.rxChan := rfl
@[simp] theorem clearSticky_pr (s : State) :
    (clearSticky s).pr = s.pr := rfl
@[simp] theorem clearSticky_socks (s : State) :
    (clearSticky s).socks = s.socks := rfl
@[simp] theorem clearSticky_txbuf (s : State) :
    (clearSticky s).txbuf = s.txbuf := rfl
@[simp] theorem clearSticky_rxbuf (s : State) :
    (clearSticky s).rxbuf = s.rxbuf := rfl
@[simp] theorem clearSticky_epoch (s : State) :
    (clearSticky s).epoch = s.epoch := rfl
@[simp] theorem clearSticky_pending (s : State) :
    (clearSticky s).pending = s.pending := rfl
@[simp] theorem clearSticky_readData (s : State) :
    (clearSticky s).readData = s.readData := rfl

/-! ## `setSock` -/

@[simp] theorem setSock_params (k : Nat) (e : Sock) (s : State) :
    (setSock k e s).params = s.params := rfl
@[simp] theorem setSock_cmd (k : Nat) (e : Sock) (s : State) :
    (setSock k e s).cmd = s.cmd := rfl
@[simp] theorem setSock_status (k : Nat) (e : Sock) (s : State) :
    (setSock k e s).status = s.status := rfl
@[simp] theorem setSock_result (k : Nat) (e : Sock) (s : State) :
    (setSock k e s).result = s.result := rfl
@[simp] theorem setSock_verdict (k : Nat) (e : Sock) (s : State) :
    (setSock k e s).verdict = s.verdict := rfl
@[simp] theorem setSock_ctrl (k : Nat) (e : Sock) (s : State) :
    (setSock k e s).ctrl = s.ctrl := rfl
@[simp] theorem setSock_a0 (k : Nat) (e : Sock) (s : State) :
    (setSock k e s).a0 = s.a0 := rfl
@[simp] theorem setSock_a1 (k : Nat) (e : Sock) (s : State) :
    (setSock k e s).a1 = s.a1 := rfl
@[simp] theorem setSock_a2 (k : Nat) (e : Sock) (s : State) :
    (setSock k e s).a2 = s.a2 := rfl
@[simp] theorem setSock_a3 (k : Nat) (e : Sock) (s : State) :
    (setSock k e s).a3 = s.a3 := rfl
@[simp] theorem setSock_a4 (k : Nat) (e : Sock) (s : State) :
    (setSock k e s).a4 = s.a4 := rfl
@[simp] theorem setSock_a5 (k : Nat) (e : Sock) (s : State) :
    (setSock k e s).a5 = s.a5 := rfl
@[simp] theorem setSock_macHi (k : Nat) (e : Sock) (s : State) :
    (setSock k e s).macHi = s.macHi := rfl
@[simp] theorem setSock_macLo (k : Nat) (e : Sock) (s : State) :
    (setSock k e s).macLo = s.macLo := rfl
@[simp] theorem setSock_ipAddr (k : Nat) (e : Sock) (s : State) :
    (setSock k e s).ipAddr = s.ipAddr := rfl
@[simp] theorem setSock_ipIdent (k : Nat) (e : Sock) (s : State) :
    (setSock k e s).ipIdent = s.ipIdent := rfl
@[simp] theorem setSock_ipTtl (k : Nat) (e : Sock) (s : State) :
    (setSock k e s).ipTtl = s.ipTtl := rfl
@[simp] theorem setSock_tcpMss (k : Nat) (e : Sock) (s : State) :
    (setSock k e s).tcpMss = s.tcpMss := rfl
@[simp] theorem setSock_rxLen (k : Nat) (e : Sock) (s : State) :
    (setSock k e s).rxLen = s.rxLen := rfl
@[simp] theorem setSock_rxChan (k : Nat) (e : Sock) (s : State) :
    (setSock k e s).rxChan = s.rxChan := rfl
@[simp] theorem setSock_pr (k : Nat) (e : Sock) (s : State) :
    (setSock k e s).pr = s.pr := rfl
@[simp] theorem setSock_socks (k : Nat) (e : Sock) (s : State) :
    (setSock k e s).socks = s.socks.set k e := rfl
@[simp] theorem setSock_txbuf (k : Nat) (e : Sock) (s : State) :
    (setSock k e s).txbuf = s.txbuf := rfl
@[simp] theorem setSock_rxbuf (k : Nat) (e : Sock) (s : State) :
    (setSock k e s).rxbuf = s.rxbuf := rfl
@[simp] theorem setSock_epoch (k : Nat) (e : Sock) (s : State) :
    (setSock k e s).epoch = s.epoch := rfl
@[simp] theorem setSock_pending (k : Nat) (e : Sock) (s : State) :
    (setSock k e s).pending = s.pending := rfl
@[simp] theorem setSock_readData (k : Nat) (e : Sock) (s : State) :
    (setSock k e s).readData = s.readData := rfl

/-! ## `advanceIdent` -/

@[simp] theorem advanceIdent_params (s : State) :
    (advanceIdent s).params = s.params := rfl
@[simp] theorem advanceIdent_cmd (s : State) :
    (advanceIdent s).cmd = s.cmd := rfl
@[simp] theorem advanceIdent_status (s : State) :
    (advanceIdent s).status = s.status := rfl
@[simp] theorem advanceIdent_result (s : State) :
    (advanceIdent s).result = s.result := rfl
@[simp] theorem advanceIdent_verdict (s : State) :
    (advanceIdent s).verdict = s.verdict := rfl
@[simp] theorem advanceIdent_ctrl (s : State) :
    (advanceIdent s).ctrl = s.ctrl := rfl
@[simp] theorem advanceIdent_a0 (s : State) :
    (advanceIdent s).a0 = s.a0 := rfl
@[simp] theorem advanceIdent_a1 (s : State) :
    (advanceIdent s).a1 = s.a1 := rfl
@[simp] theorem advanceIdent_a2 (s : State) :
    (advanceIdent s).a2 = s.a2 := rfl
@[simp] theorem advanceIdent_a3 (s : State) :
    (advanceIdent s).a3 = s.a3 := rfl
@[simp] theorem advanceIdent_a4 (s : State) :
    (advanceIdent s).a4 = s.a4 := rfl
@[simp] theorem advanceIdent_a5 (s : State) :
    (advanceIdent s).a5 = s.a5 := rfl
@[simp] theorem advanceIdent_macHi (s : State) :
    (advanceIdent s).macHi = s.macHi := rfl
@[simp] theorem advanceIdent_macLo (s : State) :
    (advanceIdent s).macLo = s.macLo := rfl
@[simp] theorem advanceIdent_ipAddr (s : State) :
    (advanceIdent s).ipAddr = s.ipAddr := rfl
@[simp] theorem advanceIdent_ipIdent (s : State) :
    (advanceIdent s).ipIdent = s.ipIdent + 1#16 := rfl
@[simp] theorem advanceIdent_ipTtl (s : State) :
    (advanceIdent s).ipTtl = s.ipTtl := rfl
@[simp] theorem advanceIdent_tcpMss (s : State) :
    (advanceIdent s).tcpMss = s.tcpMss := rfl
@[simp] theorem advanceIdent_rxLen (s : State) :
    (advanceIdent s).rxLen = s.rxLen := rfl
@[simp] theorem advanceIdent_rxChan (s : State) :
    (advanceIdent s).rxChan = s.rxChan := rfl
@[simp] theorem advanceIdent_pr (s : State) :
    (advanceIdent s).pr = s.pr := rfl
@[simp] theorem advanceIdent_socks (s : State) :
    (advanceIdent s).socks = s.socks := rfl
@[simp] theorem advanceIdent_txbuf (s : State) :
    (advanceIdent s).txbuf = s.txbuf := rfl
@[simp] theorem advanceIdent_rxbuf (s : State) :
    (advanceIdent s).rxbuf = s.rxbuf := rfl
@[simp] theorem advanceIdent_epoch (s : State) :
    (advanceIdent s).epoch = s.epoch := rfl
@[simp] theorem advanceIdent_pending (s : State) :
    (advanceIdent s).pending = s.pending := rfl
@[simp] theorem advanceIdent_readData (s : State) :
    (advanceIdent s).readData = s.readData := rfl

/-! ## `withFetchWord` -/

@[simp] theorem withFetchWord_params (s : State) (nbits w : Nat) :
    (s.withFetchWord nbits w).params = s.params := rfl
@[simp] theorem withFetchWord_cmd (s : State) (nbits w : Nat) :
    (s.withFetchWord nbits w).cmd = s.cmd := rfl
@[simp] theorem withFetchWord_status (s : State) (nbits w : Nat) :
    (s.withFetchWord nbits w).status = s.status := rfl
@[simp] theorem withFetchWord_result (s : State) (nbits w : Nat) :
    (s.withFetchWord nbits w).result = s.result := rfl
@[simp] theorem withFetchWord_verdict (s : State) (nbits w : Nat) :
    (s.withFetchWord nbits w).verdict = s.verdict := rfl
@[simp] theorem withFetchWord_ctrl (s : State) (nbits w : Nat) :
    (s.withFetchWord nbits w).ctrl = s.ctrl := rfl
@[simp] theorem withFetchWord_a0 (s : State) (nbits w : Nat) :
    (s.withFetchWord nbits w).a0 = s.a0 := rfl
@[simp] theorem withFetchWord_a1 (s : State) (nbits w : Nat) :
    (s.withFetchWord nbits w).a1 = s.a1 := rfl
@[simp] theorem withFetchWord_a2 (s : State) (nbits w : Nat) :
    (s.withFetchWord nbits w).a2 = s.a2 := rfl
@[simp] theorem withFetchWord_a3 (s : State) (nbits w : Nat) :
    (s.withFetchWord nbits w).a3 = s.a3 := rfl
@[simp] theorem withFetchWord_a4 (s : State) (nbits w : Nat) :
    (s.withFetchWord nbits w).a4 = s.a4 := rfl
@[simp] theorem withFetchWord_a5 (s : State) (nbits w : Nat) :
    (s.withFetchWord nbits w).a5 = s.a5 := rfl
@[simp] theorem withFetchWord_macHi (s : State) (nbits w : Nat) :
    (s.withFetchWord nbits w).macHi = s.macHi := rfl
@[simp] theorem withFetchWord_macLo (s : State) (nbits w : Nat) :
    (s.withFetchWord nbits w).macLo = s.macLo := rfl
@[simp] theorem withFetchWord_ipAddr (s : State) (nbits w : Nat) :
    (s.withFetchWord nbits w).ipAddr = s.ipAddr := rfl
@[simp] theorem withFetchWord_ipIdent (s : State) (nbits w : Nat) :
    (s.withFetchWord nbits w).ipIdent = s.ipIdent := rfl
@[simp] theorem withFetchWord_ipTtl (s : State) (nbits w : Nat) :
    (s.withFetchWord nbits w).ipTtl = s.ipTtl := rfl
@[simp] theorem withFetchWord_tcpMss (s : State) (nbits w : Nat) :
    (s.withFetchWord nbits w).tcpMss = s.tcpMss := rfl
@[simp] theorem withFetchWord_rxLen (s : State) (nbits w : Nat) :
    (s.withFetchWord nbits w).rxLen = s.rxLen := rfl
@[simp] theorem withFetchWord_rxChan (s : State) (nbits w : Nat) :
    (s.withFetchWord nbits w).rxChan = s.rxChan := rfl
@[simp] theorem withFetchWord_pr (s : State) (nbits w : Nat) :
    (s.withFetchWord nbits w).pr = s.pr := rfl
@[simp] theorem withFetchWord_socks (s : State) (nbits w : Nat) :
    (s.withFetchWord nbits w).socks = s.socks := rfl
@[simp] theorem withFetchWord_txbuf (s : State) (nbits w : Nat) :
    (s.withFetchWord nbits w).txbuf = s.txbuf := rfl
@[simp] theorem withFetchWord_rxbuf (s : State) (nbits w : Nat) :
    (s.withFetchWord nbits w).rxbuf = s.rxbuf := rfl
@[simp] theorem withFetchWord_epoch (s : State) (nbits w : Nat) :
    (s.withFetchWord nbits w).epoch = s.epoch := rfl
@[simp] theorem withFetchWord_pending (s : State) (nbits w : Nat) :
    (s.withFetchWord nbits w).pending = issueEvent s (tableWord nbits w) :: s.pending := rfl
@[simp] theorem withFetchWord_readData (s : State) (nbits w : Nat) :
    (s.withFetchWord nbits w).readData = s.readData := rfl

end Sys2Proof.Machine
end

