-- ==== Sys2Proof/Laws/Memory.lean ====
section
/-! SUPPORT. The laws of the buffers: a read after a write, every other byte unchanged, and the
canonical form kept by every memory operation. -/

namespace Sys2Proof.Machine

open Sys2Proof

/-! ## One buffer -/

theorem lookupCell_insertCell (cs : List Host.Cell) (a : Nat) (b : Byte) (x : Nat) :
    lookupCell (insertCell cs a b) x = if x = a then some b else lookupCell cs x := by
  induction cs with
  | nil => grind [insertCell, lookupCell]
  | cons c cs ih => grind [insertCell, lookupCell]

theorem mem_insertCell (cs : List Host.Cell) (a : Nat) (b : Byte) (c : Host.Cell)
    (h : c ∈ insertCell cs a b) : c = (a, b) ∨ c ∈ cs := by
  induction cs with
  | nil => simpa [insertCell] using h
  | cons d cs ih =>
    unfold insertCell at h
    split_ifs at h with h1 h2
    · simpa using h
    · rcases List.mem_cons.1 h with h | h
      · exact .inl h
      · exact .inr (List.mem_cons_of_mem _ h)
    · rcases List.mem_cons.1 h with h | h
      · exact .inr (h ▸ List.mem_cons_self)
      · exact (ih h).imp id (List.mem_cons_of_mem _)

theorem rising_insertCell (cs : List Host.Cell) (a : Nat) (b : Byte)
    (h : cs.Pairwise (fun x y => x.1 < y.1)) :
    (insertCell cs a b).Pairwise (fun x y => x.1 < y.1) := by
  induction cs with
  | nil => simp [insertCell]
  | cons c cs ih =>
    have hc := (List.pairwise_cons.1 h).1
    have ht := (List.pairwise_cons.1 h).2
    unfold insertCell
    split_ifs with h1 h2
    · refine List.pairwise_cons.2 ⟨fun y hy => ?_, h⟩
      rcases List.mem_cons.1 hy with rfl | hy
      · exact h1
      · exact h1.trans (hc y hy)
    · exact List.pairwise_cons.2 ⟨fun y hy => h2 ▸ hc y hy, ht⟩
    · refine List.pairwise_cons.2 ⟨fun y hy => ?_, ih ht⟩
      rcases mem_insertCell cs a b y hy with rfl | hy
      · simp only; omega
      · exact hc y hy

/-- A byte after one byte was written. -/
@[simp] theorem Memory.get?_set (m : Memory) (a : Nat) (b : Byte) (x : Nat) :
    (m.set a b).get? x = if x = a then some b else m.get? x :=
  lookupCell_insertCell m.cells a b x

/-- A byte after a range was written. -/
theorem Memory.get?_setRange (bs : List Byte) (m : Memory) (off x : Nat) :
    (m.setRange off bs).get? x =
      if off ≤ x ∧ x < off + bs.length then bs[x - off]? else m.get? x := by
  induction bs generalizing m off with
  | nil => simp [Memory.setRange]
  | cons b bs ih =>
    rw [Memory.setRange, ih, Memory.get?_set]
    by_cases h : x = off
    · subst h; simp
    · by_cases h2 : off + 1 ≤ x ∧ x < off + 1 + bs.length
      · rw [if_pos h2, if_pos (by simp only [List.length_cons]; omega),
          show x - off = (x - (off + 1)) + 1 by omega, List.getElem?_cons_succ]
      · rw [if_neg h2, if_neg h, if_neg (by simp only [List.length_cons]; omega)]

@[simp] theorem Memory.get?_empty (x : Nat) : Memory.empty.get? x = none := rfl

/-- The canonical form is kept by a byte write. -/
theorem Memory.wf_set (m : Memory) (a : Nat) (b : Byte) (h : m.wf) : (m.set a b).wf :=
  rising_insertCell m.cells a b h

/-- The canonical form is kept by a range write. -/
theorem Memory.wf_setRange (bs : List Byte) (m : Memory) (off : Nat) (h : m.wf) :
    (m.setRange off bs).wf := by
  induction bs generalizing m off with
  | nil => exact h
  | cons b bs ih => exact ih _ _ (m.wf_set off b h)

/-- The buffers after reset have the canonical form. -/
theorem Memory.wf_empty : Memory.empty.wf := List.Pairwise.nil

theorem bufSound_empty (n : Nat) : BufSound n Memory.empty :=
  ⟨Memory.wf_empty, by simp [Memory.empty]⟩

/-- A byte write below `BUF_BYTES` keeps a buffer sound. -/
theorem bufSound_set {n : Nat} {m : Memory} (h : BufSound n m) (a : Nat) (b : Byte) (ha : a < n) :
    BufSound n (m.set a b) := by
  refine ⟨m.wf_set a b h.1, fun c hc => ?_⟩
  rcases mem_insertCell m.cells a b c hc with rfl | hc
  · exact ha
  · exact h.2 c hc

/-- A range write below `BUF_BYTES` keeps a buffer sound. -/
theorem bufSound_setRange {n : Nat} (bs : List Byte) {m : Memory} (h : BufSound n m) (off : Nat)
    (hb : off + bs.length ≤ n) : BufSound n (m.setRange off bs) := by
  induction bs generalizing m off with
  | nil => exact h
  | cons b bs ih =>
    simp only [List.length_cons] at hb
    exact ih (bufSound_set h off b (by omega)) (off + 1) (by omega)

/-! ## The buffers of a state -/

/-- A buffer byte depends on the buffer's written bytes and the epoch alone. -/
theorem bufByte_congr {b : Buf} {s t : State} (hm : bufMem b t = bufMem b s)
    (he : t.epoch = s.epoch) (a : Nat) : bufByte b t a = bufByte b s a := by
  rw [bufByte, bufByte, hm, he]

/-- A byte of `TXBUF` after bytes were written there. -/
theorem bufByte_tx_writeBuf (off : Nat) (bs : List Byte) (s : State) (a : Nat) :
    bufByte .tx (writeBuf .tx off bs s) a =
      if off ≤ a ∧ a < off + bs.length then bs.getD (a - off) 0#8 else bufByte .tx s a := by
  simp only [bufByte, bufMem, writeBuf_tx_txbuf, writeBuf_tx_epoch, Memory.get?_setRange]
  split_ifs with h
  · have : a - off < bs.length := by omega
    simp [List.getD, this]
  · rfl

/-- A byte of `RXBUF` after bytes were written there. -/
theorem bufByte_rx_writeBuf (off : Nat) (bs : List Byte) (s : State) (a : Nat) :
    bufByte .rx (writeBuf .rx off bs s) a =
      if off ≤ a ∧ a < off + bs.length then bs.getD (a - off) 0#8 else bufByte .rx s a := by
  simp only [bufByte, bufMem, writeBuf_rx_rxbuf, writeBuf_rx_epoch, Memory.get?_setRange]
  split_ifs with h
  · have : a - off < bs.length := by omega
    simp [List.getD, this]
  · rfl

/-- A byte inside bytes just written to `TXBUF`. -/
theorem bufByte_tx_writeBuf_inside (off : Nat) (bs : List Byte) (s : State) (i : Nat)
    (h : i < bs.length) : bufByte .tx (writeBuf .tx off bs s) (off + i) = bs[i] := by
  rw [bufByte_tx_writeBuf, if_pos ⟨by omega, by omega⟩]
  simp [h]

/-- A byte outside bytes just written to `TXBUF`. -/
theorem bufByte_tx_writeBuf_outside (off : Nat) (bs : List Byte) (s : State) (a : Nat)
    (h : a < off ∨ off + bs.length ≤ a) :
    bufByte .tx (writeBuf .tx off bs s) a = bufByte .tx s a := by
  rw [bufByte_tx_writeBuf, if_neg (by omega)]

/-- Writing one buffer leaves the other alone. -/
@[simp] theorem bufByte_rx_writeBuf_tx (off : Nat) (bs : List Byte) (s : State) (a : Nat) :
    bufByte .rx (writeBuf .tx off bs s) a = bufByte .rx s a := rfl

@[simp] theorem bufByte_tx_writeBuf_rx (off : Nat) (bs : List Byte) (s : State) (a : Nat) :
    bufByte .tx (writeBuf .rx off bs s) a = bufByte .tx s a := rfl

@[simp] theorem bufByte_completed (b : Buf) (v : Word) (s : State) :
    bufByte b (completed v s) = bufByte b s := by
  funext a; cases b <;> rfl

@[simp] theorem bufByte_failed (b : Buf) (c : ErrCode) (s : State) :
    bufByte b (failed c s) = bufByte b s := by
  funext a; cases b <;> rfl

@[simp] theorem bufByte_advanceIdent (b : Buf) (s : State) :
    bufByte b (advanceIdent s) = bufByte b s := by
  funext a; cases b <;> rfl

@[simp] theorem bufByte_setSock (b : Buf) (k : Nat) (e : Sock) (s : State) :
    bufByte b (setSock k e s) = bufByte b s := by
  funext a; cases b <;> rfl

/-! ## Ranges -/

@[simp] theorem readRange_length (B : Nat → Byte) (off n : Nat) : (readRange B off n).length = n := by
  induction n generalizing off with
  | zero => rfl
  | succ n ih => simp [readRange, ih]

theorem readRange_getElem (B : Nat → Byte) (off n i : Nat) (h : i < (readRange B off n).length) :
    (readRange B off n)[i] = B (off + i) := by
  induction n generalizing off i with
  | zero => simp [readRange] at h
  | succ n ih =>
    cases i with
    | zero => rfl
    | succ i =>
      simp only [readRange, List.getElem_cons_succ]
      rw [ih (off + 1) i]
      congr 1; omega

/-- A range read depends on the bytes of the range alone. -/
theorem readRange_congr {B C : Nat → Byte} {off n : Nat}
    (h : ∀ a, off ≤ a → a < off + n → B a = C a) : readRange B off n = readRange C off n := by
  induction n generalizing off with
  | zero => rfl
  | succ n ih =>
    rw [readRange, readRange, h off (by omega) (by omega),
      ih (fun a h1 h2 => h a (by omega) (by omega))]

/-- A range read in two pieces. -/
theorem readRange_add (B : Nat → Byte) (off m n : Nat) :
    readRange B off (m + n) = readRange B off m ++ readRange B (off + m) n := by
  induction m generalizing off with
  | zero => simp [readRange]
  | succ m ih =>
    rw [show m + 1 + n = (m + n) + 1 by omega, readRange, readRange, ih,
      show off + 1 + m = off + (m + 1) by omega]
    rfl

/-- Reading back a range just written to `TXBUF`. -/
theorem readRange_tx_writeBuf (off : Nat) (bs : List Byte) (s : State) :
    readRange (bufByte .tx (writeBuf .tx off bs s)) off bs.length = bs := by
  apply List.ext_getElem (by simp)
  intro i h1 h2
  rw [readRange_getElem, bufByte_tx_writeBuf_inside off bs s i h2]

end Sys2Proof.Machine
end

