-- ==== Sys2Proof/Laws/Words.lean ====
section
/-! SUPPORT. The big-endian accessors undo the big-endian writers, and the lengths of the headers. -/

namespace Sys2Proof.Machine

open Sys2Proof

@[simp] theorem putBe16_length (v : Half) : (putBe16 v).length = 2 := rfl

@[simp] theorem putBe32_length (v : Word) : (putBe32 v).length = 4 := rfl

@[simp] theorem putBe48_length (v : Mac) : (putBe48 v).length = 6 := rfl

/-- The two bytes of `putBe16` join to the value. -/
theorem join16 (v : Half) : v.extractLsb' 8 8 ++ v.extractLsb' 0 8 = v := by
  ext i hi
  simp only [BitVec.getElem_append, BitVec.getElem_extractLsb']
  rw [← BitVec.getLsbD_eq_getElem]
  split_ifs <;> congr 1 <;> omega

theorem join32 (v : Word) :
    v.extractLsb' 24 8 ++ v.extractLsb' 16 8 ++ v.extractLsb' 8 8 ++ v.extractLsb' 0 8 = v := by
  ext i hi
  simp only [BitVec.getElem_append, BitVec.getElem_extractLsb']
  rw [← BitVec.getLsbD_eq_getElem]
  split_ifs <;> congr 1 <;> omega

theorem join48 (v : Mac) :
    v.extractLsb' 40 8 ++ v.extractLsb' 32 8 ++ v.extractLsb' 24 8 ++ v.extractLsb' 16 8
      ++ v.extractLsb' 8 8 ++ v.extractLsb' 0 8 = v := by
  ext i hi
  simp only [BitVec.getElem_append, BitVec.getElem_extractLsb']
  rw [← BitVec.getLsbD_eq_getElem]
  split_ifs <;> congr 1 <;> omega

/-- The bytes of `putBe16` of two joined bytes. -/
theorem putBe16_be16 (B : Nat → Byte) (i : Nat) : putBe16 (be16 B i) = [B i, B (i + 1)] := by
  have h1 : (be16 B i).extractLsb' 8 8 = B i := by
    ext j hj
    simp only [be16, BitVec.getElem_extractLsb', BitVec.getLsbD_append]
    rw [if_neg (by omega), ← BitVec.getLsbD_eq_getElem]
    congr 1; omega
  have h2 : (be16 B i).extractLsb' 0 8 = B (i + 1) := by
    ext j hj
    simp only [be16, BitVec.getElem_extractLsb', BitVec.getLsbD_append]
    rw [if_pos (by omega), ← BitVec.getLsbD_eq_getElem]
    congr 1; omega
  rw [putBe16, h1, h2]

@[simp] theorem ethHeader_length (s : State) : (ethHeader s).length = 14 := rfl

@[simp] theorem ipHeaderWith_length (f : Half) (s : State) : (ipHeaderWith f s).length = 20 := rfl

@[simp] theorem ipHeader_length (s : State) : (ipHeader s).length = 20 := rfl

@[simp] theorem udpHeaderWith_length (f : Half) (s : State) : (udpHeaderWith f s).length = 8 := rfl

@[simp] theorem udpHeader_length (off : Nat) (s : State) : (udpHeader off s).length = 8 := rfl

@[simp] theorem tcpHeaderWith_length (f : Half) (s : State) :
    (tcpHeaderWith f s).length = tcpHeaderLen s := by
  unfold tcpHeaderWith tcpHeaderLen mssOption
  split <;> simp_all

@[simp] theorem tcpHeader_length (off : Nat) (s : State) :
    (tcpHeader off s).length = tcpHeaderLen s := tcpHeaderWith_length _ s

end Sys2Proof.Machine
end

