-- ==== Sys2Proof/Laws/Checksum.lean ====
section
/-! SUPPORT. The arithmetic of `oc_add` (40_checksum.md rules R130 and R135): it is a commutative
monoid on 16-bit values, and a value and its complement add to 0xFFFF. -/

namespace Sys2Proof.Machine

open Sys2Proof

/-- `oc_add` on numbers. -/
theorem ocAdd_toNat (s w : Half) :
    (ocAdd s w).toNat =
      if 0xFFFF < s.toNat + w.toNat then s.toNat + w.toNat - 0xFFFF else s.toNat + w.toNat := by
  have hs := s.isLt
  have hw := w.isLt
  unfold ocAdd
  dsimp only
  split_ifs with h <;> simp only [BitVec.toNat_ofNat] <;> omega

theorem ocAdd_comm (s w : Half) : ocAdd s w = ocAdd w s := by
  apply BitVec.eq_of_toNat_eq
  rw [ocAdd_toNat, ocAdd_toNat, Nat.add_comm]

theorem ocAdd_assoc (a b c : Half) : ocAdd (ocAdd a b) c = ocAdd a (ocAdd b c) := by
  apply BitVec.eq_of_toNat_eq
  have ha := a.isLt
  have hb := b.isLt
  have hc := c.isLt
  simp only [ocAdd_toNat]
  split_ifs <;> omega

theorem ocAdd_right_comm (a b c : Half) : ocAdd (ocAdd a b) c = ocAdd (ocAdd a c) b := by
  rw [ocAdd_assoc, ocAdd_comm b c, ← ocAdd_assoc]

@[simp] theorem ocAdd_zero (a : Half) : ocAdd a 0#16 = a := by
  apply BitVec.eq_of_toNat_eq
  have ha := a.isLt
  rw [ocAdd_toNat, if_neg (by simp; omega)]
  simp

/-- A sum is zero only when both sides are. -/
theorem ocAdd_eq_zero (a b : Half) : ocAdd a b = 0#16 ↔ a = 0#16 ∧ b = 0#16 := by
  have ha := a.isLt
  have hb := b.isLt
  rw [← BitVec.toNat_inj, ocAdd_toNat, ← BitVec.toNat_inj, ← BitVec.toNat_inj]
  simp only [BitVec.toNat_ofNat]
  split_ifs <;> omega

/-- A value and its complement add to 0xFFFF (R135 item 3). -/
theorem ocAdd_complement (a : Half) : ocAdd a (~~~a) = 0xFFFF#16 := by
  apply BitVec.eq_of_toNat_eq
  have ha := a.isLt
  rw [ocAdd_toNat, BitVec.toNat_not]
  simp only [BitVec.toNat_ofNat]
  split_ifs <;> omega

/-- The start value comes out of a running sum. -/
theorem csumAdd_ocAdd (bs : List Byte) (i w : Half) :
    csumAdd (ocAdd i w) bs = ocAdd (csumAdd i bs) w := by
  induction i, bs using csumAdd.induct with
  | case1 i => rfl
  | case2 i b => simp only [csumAdd]; exact ocAdd_right_comm i w _
  | case3 i b c rest ih => simp only [csumAdd]; rw [ocAdd_right_comm, ih]

theorem csumAdd_start (bs : List Byte) (i : Half) : csumAdd i bs = ocAdd (csumAdd 0#16 bs) i := by
  rw [← csumAdd_ocAdd, ocAdd_comm, ocAdd_zero]

end Sys2Proof.Machine
end

