-- ==== Sys2Proof/Laws/Ops.lean ====
section
/-! SUPPORT. What each shared operation and each command can do, said once: if it answers a next
state, that state is one of these. -/

namespace Sys2Proof.Machine

open Sys2Proof

/-! ## The ends of a command -/

theorem raiseError_next {c : ErrCode} {s t : State} (h : raiseError c s = .next t) : t = failed c s := by
  cases h; rfl

theorem complete_next {v : Word} {s t : State} (h : complete v s = .next t) : t = completed v s := by
  cases h; rfl

/-! ## Tests -/

@[simp] theorem rangeFits_iff (off n : Nat) (s : State) :
    rangeFits off n s = true ↔ off + n ≤ s.params.bufBytes := by
  simp [rangeFits]

@[simp] theorem rangeFits_eq_false (off n : Nat) (s : State) :
    rangeFits off n s = false ↔ s.params.bufBytes < off + n := by
  simp [rangeFits]

@[simp] theorem residualValid_iff (r : Half) :
    residualValid r = true ↔ r = 0xFFFF#16 ∨ r = 0x0000#16 := by
  simp [residualValid]

/-! ## The commands -/

theorem execNop_cases {s t : State} (h : execNop s = .next t) : t = completed 0#32 s :=
  complete_next h

theorem execEthAdd_cases {off : Nat} {s t : State} (h : execEthAdd off s = .next t) :
    (off + 14 ≤ s.params.bufBytes ∧ t = completed 14#32 (writeBuf .tx off (ethHeader s) s))
      ∨ (s.params.bufBytes < off + 14 ∧ t = failed .range s) := by
  unfold execEthAdd at h
  split at h
  · exact .inl ⟨by simp_all, complete_next h⟩
  · exact .inr ⟨by simp_all, raiseError_next h⟩

theorem execIpAdd_cases {off : Nat} {s t : State} (h : execIpAdd off s = .next t) :
    (20 + ipDlen s ≤ 65535 ∧ off + 20 ≤ s.params.bufBytes
        ∧ t = completed 20#32 (advanceIdent (writeBuf .tx off (ipHeader s) s)))
      ∨ (65535 < 20 + ipDlen s ∧ t = failed .length s)
      ∨ (20 + ipDlen s ≤ 65535 ∧ s.params.bufBytes < off + 20 ∧ t = failed .range s) := by
  unfold execIpAdd at h
  split at h
  · exact .inr (.inl ⟨by assumption, raiseError_next h⟩)
  · split at h
    · exact .inl ⟨by omega, by simp_all, complete_next h⟩
    · exact .inr (.inr ⟨by omega, by simp_all, raiseError_next h⟩)

theorem execUdpAdd_cases {off : Nat} {s t : State} (h : execUdpAdd off s = .next t) :
    (8 + udpDlen s ≤ 65535 ∧ off + (8 + udpDlen s) ≤ s.params.bufBytes
        ∧ t = completed 8#32 (writeBuf .tx off (udpHeader off s) s))
      ∨ (65535 < 8 + udpDlen s ∧ t = failed .length s)
      ∨ (8 + udpDlen s ≤ 65535 ∧ s.params.bufBytes < off + (8 + udpDlen s)
        ∧ t = failed .range s) := by
  unfold execUdpAdd at h
  split at h
  · exact .inr (.inl ⟨by assumption, raiseError_next h⟩)
  · split at h
    · exact .inl ⟨by omega, by simp_all, complete_next h⟩
    · exact .inr (.inr ⟨by omega, by simp_all, raiseError_next h⟩)

theorem execTcpAdd_cases {off : Nat} {s t : State} (h : execTcpAdd off s = .next t) :
    (tcpHeaderLen s + tcpDlen s ≤ 65535 ∧ off + (tcpHeaderLen s + tcpDlen s) ≤ s.params.bufBytes
        ∧ t = completed (BitVec.ofNat 32 (tcpHeaderLen s)) (writeBuf .tx off (tcpHeader off s) s))
      ∨ (65535 < tcpHeaderLen s + tcpDlen s ∧ t = failed .length s)
      ∨ (tcpHeaderLen s + tcpDlen s ≤ 65535
        ∧ s.params.bufBytes < off + (tcpHeaderLen s + tcpDlen s) ∧ t = failed .range s) := by
  unfold execTcpAdd at h
  split at h
  · exact .inr (.inl ⟨by assumption, raiseError_next h⟩)
  · split at h
    · exact .inl ⟨by omega, by simp_all, complete_next h⟩
    · exact .inr (.inr ⟨by omega, by simp_all, raiseError_next h⟩)

theorem execCsum_cases {off : Nat} {b : Buf} {s t : State} (h : execCsum off b s = .next t) :
    (off + csumLen s ≤ s.params.bufBytes
        ∧ t = completed
          ((csumAdd (csumInit s) (readRange (bufByte b s) off (csumLen s))).setWidth 32) s)
      ∨ (s.params.bufBytes < off + csumLen s ∧ t = failed .range s) := by
  unfold execCsum at h
  split at h
  · exact .inl ⟨by simp_all, complete_next h⟩
  · exact .inr ⟨by simp_all, raiseError_next h⟩

theorem execParse_cases {s t : State} (h : execParse s = .next t) :
    t = completed (validWord (parseRx s)) { s with pr := parseRx s } := complete_next h

theorem execIpCheck_cases {s t : State} (h : execIpCheck s = .next t) :
    t = completed (if admission s = .none then 1#32 else 0#32)
      { s with verdict := checkVerdict (admission s) } := complete_next h

theorem execUdpVerify_cases {s t : State} (h : execUdpVerify s = .next t) :
    t = completed (verifyResult (parseRx s).udp (udpResidual (parseRx s) s)) s := complete_next h

theorem execTcpVerify_cases {s t : State} (h : execTcpVerify s = .next t) :
    t = completed (verifyResult (parseRx s).tcp (tcpResidual (parseRx s) s)) s := complete_next h

theorem execDispatch_cases {s t : State} (h : execDispatch s = .next t) :
    t = completed (verdictWord (classify (parseRx s) s).1)
      { s with
        pr := parseRx s
        verdict := (classify (parseRx s) s).1
        socks := (classify (parseRx s) s).2 } := complete_next h

theorem execSockAlloc_cases {s t : State} (h : execSockAlloc s = .next t) :
    (allocPort s = 0#16 ∧ t = failed .arg s)
      ∨ (∃ k, allocPort s ≠ 0#16 ∧ s.socks.findIdx? sockUnused = some k
        ∧ t = completed (BitVec.ofNat 32 k) (setSock k (allocEntry s) s))
      ∨ (allocPort s ≠ 0#16 ∧ s.socks.findIdx? sockUnused = none
        ∧ t = completed 0xFFFFFFFF#32 s) := by
  unfold execSockAlloc at h
  split at h
  · exact .inl ⟨by assumption, raiseError_next h⟩
  · split at h
    · exact .inr (.inl ⟨_, by assumption, by assumption, complete_next h⟩)
    · exact .inr (.inr ⟨by assumption, by assumption, complete_next h⟩)

theorem execSockClear_cases {k : Nat} {m : ClearMode} {s t : State}
    (h : execSockClear k m s = .next t) :
    (k < s.params.nsock
        ∧ t = completed (BitVec.ofNat 32 k) (setSock k (clearedEntry m (sockAt s k)) s))
      ∨ (s.params.nsock ≤ k ∧ t = failed .slot s) := by
  unfold execSockClear at h
  split at h
  · exact .inl ⟨by assumption, complete_next h⟩
  · exact .inr ⟨by omega, raiseError_next h⟩

/-! ## Classification -/

/-- What the UDP path can answer (43_dispatch.md R215). -/
theorem udpPath_cases (p : ParseRecord) (s : State) :
    udpPath p s = (noSlot .drop .l4hdr, s.socks)
      ∨ udpPath p s = (noSlot .drop .l4csum, s.socks)
      ∨ udpPath p s = (noSlot .udpNoMatch .none, s.socks)
      ∨ ∃ k, p.udp = true ∧ s.socks.findIdx? (udpMatches p) = some k
        ∧ udpPath p s
          = (toSlot .udp k, s.socks.set k (describe p (recordSender p (sockAt s k)))) := by
  unfold udpPath
  split
  · exact .inl rfl
  · split
    · exact .inr (.inl rfl)
    · split
      · rename_i h _ _ k hk
        exact .inr (.inr (.inr ⟨k, by simpa using h, hk, rfl⟩))
      · exact .inr (.inr (.inl rfl))

/-- What the TCP path can answer (43_dispatch.md R216). -/
theorem tcpPath_cases (p : ParseRecord) (s : State) :
    tcpPath p s = (noSlot .drop .l4hdr, s.socks)
      ∨ tcpPath p s = (noSlot .drop .l4csum, s.socks)
      ∨ tcpPath p s = (noSlot .tcpNoMatch .none, s.socks)
      ∨ ∃ k, p.tcp = true ∧ tcpHit p s.socks = some k
        ∧ tcpPath p s = (toSlot .tcp k, s.socks.set k (describe p (sockAt s k))) := by
  unfold tcpPath
  split
  · exact .inl rfl
  · split
    · exact .inr (.inl rfl)
    · split
      · rename_i h _ _ k hk
        exact .inr (.inr (.inr ⟨k, by simpa using h, hk, rfl⟩))
      · exact .inr (.inr (.inl rfl))

/-- The 8-bit slot of a delivery is the entry's index in every table it can number. -/
theorem toSlot_slot_toNat (c : FrameClass) {k : Nat} (h : k < 256) : (toSlot c k).slot.toNat = k := by
  simp only [toSlot, BitVec.toNat_ofNat]
  omega

/-- A hit of the TCP match is inside the table. -/
theorem tcpHit_lt {p : ParseRecord} {socks : List Sock} {k : Nat} (h : tcpHit p socks = some k) :
    k < socks.length := by
  unfold tcpHit at h
  split at h
  · rename_i j hj
    cases h
    exact (List.findIdx?_eq_some_iff_getElem.1 hj).1
  · exact (List.findIdx?_eq_some_iff_getElem.1 h).1

/-- What classification can answer (43_dispatch.md R211 to R216): a verdict without a slot and the
table unchanged, or a delivery to one slot of the table. -/
theorem classify_cases (p : ParseRecord) (s : State) :
    (∃ c r, classify p s = (noSlot c r, s.socks) ∧ c ≠ .udp ∧ c ≠ .tcp ∧ (c = .drop ↔ r ≠ .none))
      ∨ (∃ k, p.udp = true ∧ s.socks.findIdx? (udpMatches p) = some k
        ∧ classify p s = (toSlot .udp k, s.socks.set k (describe p (recordSender p (sockAt s k)))))
      ∨ ∃ k, p.tcp = true ∧ tcpHit p s.socks = some k
        ∧ classify p s = (toSlot .tcp k, s.socks.set k (describe p (sockAt s k))) := by
  unfold classify
  split
  · exact .inl ⟨_, _, rfl, by decide, by decide, by decide⟩
  split
  · rename_i _ h
    refine .inl ⟨_, _, rfl, by decide, by decide, ?_⟩
    rcases h with h | h <;> rw [h] <;> decide
  split
  · exact .inl ⟨_, _, rfl, by decide, by decide, by decide⟩
  split
  · rename_i h
    exact .inl ⟨_, _, rfl, by decide, by decide, by simpa using h⟩
  split
  · exact .inl ⟨_, _, rfl, by decide, by decide, by decide⟩
  unfold demux
  split
  · exact .inl ⟨_, _, rfl, by decide, by decide, by decide⟩
  split
  · rcases udpPath_cases p s with h | h | h | ⟨k, hp, hk, h⟩
    · exact .inl ⟨_, _, h, by decide, by decide, by decide⟩
    · exact .inl ⟨_, _, h, by decide, by decide, by decide⟩
    · exact .inl ⟨_, _, h, by decide, by decide, by decide⟩
    · exact .inr (.inl ⟨k, hp, hk, h⟩)
  split
  · rcases tcpPath_cases p s with h | h | h | ⟨k, hp, hk, h⟩
    · exact .inl ⟨_, _, h, by decide, by decide, by decide⟩
    · exact .inl ⟨_, _, h, by decide, by decide, by decide⟩
    · exact .inl ⟨_, _, h, by decide, by decide, by decide⟩
    · exact .inr (.inr ⟨k, hp, hk, h⟩)
  · exact .inl ⟨_, _, rfl, by decide, by decide, by decide⟩

/-! ## Parsing -/

/-- What `parse()` can answer (42_parse_validate.md R182). -/
theorem parseFrame_cases (B : Nat → Byte) (len : Nat) :
    (len < 14 ∧ parseFrame B len = ParseRecord.empty)
      ∨ (14 ≤ len ∧ (be16 B 12 ≠ 0x0800#16 ∨ len < 34) ∧ parseFrame B len = parseL2 B)
      ∨ (34 ≤ len ∧ be16 B 12 = 0x0800#16
        ∧ parseFrame B len = parseL4 B len (parseL3 B (parseL2 B))) := by
  unfold parseFrame
  split
  · exact .inl ⟨by assumption, rfl⟩
  · split
    · rename_i h1 h2
      exact .inr (.inl ⟨by omega, h2, rfl⟩)
    · rename_i h1 h2
      have h3 := not_or.1 h2
      exact .inr (.inr ⟨by omega, not_not.1 h3.1, rfl⟩)

/-! ## The engine and the bus -/

/-- What a write of `CMD` can do (10_state.md R23, 30_encoding.md R90). -/
theorem issueCommand_cases (w : Word) (s : State) :
    (∃ i, decode w = .ok i ∧ issueCommand w s = exec i { s with cmd := w })
      ∨ (decode w = .error .illegal ∧ issueCommand w s = .next (failed .illegal { s with cmd := w }))
      ∨ (decode w = .error .reserved
        ∧ issueCommand w s = .next (failed .reserved { s with cmd := w })) := by
  unfold issueCommand
  split
  · exact .inl ⟨_, by assumption, rfl⟩
  · rename_i e he
    cases e
    · exact .inr (.inl ⟨he, rfl⟩)
    · exact .inr (.inr ⟨he, rfl⟩)

/-- What an allowed host write can do (20_memory.md R68). -/
theorem writeTarget_cases {t : Target} {width : Width} {v : Word} {s u : State}
    (h : writeTarget t width v s = .next u) :
    issueCommand v s = .next u ∨ (∃ r, u = writeReg r v s) ∨ u = s
      ∨ ∃ b w, u = writeWindow b width w v s := by
  unfold writeTarget at h
  split at h
  · split at h
    · exact .inl h
    · cases h; exact .inr (.inl ⟨_, rfl⟩)
    · cases h; exact .inr (.inr (.inl rfl))
  · cases h; exact .inr (.inr (.inr ⟨_, _, rfl⟩))

/-- What one host access can do (20_memory.md R66, R69). -/
theorem performAccess_cases {a : Access} {s u : State} (h : performAccess a s = .next u) :
    (∃ v, u = { s with readData := v })
      ∨ (∃ v, issueCommand v s = .next u) ∨ (∃ r v, u = writeReg r v s) ∨ u = s
      ∨ ∃ b width w v, u = writeWindow b width w v s := by
  cases a with
  | read addr width =>
    simp only [performAccess] at h
    split at h
    · cases h
    · split at h
      · cases h; exact .inl ⟨_, rfl⟩
      · cases h
  | write addr width v =>
    simp only [performAccess] at h
    split at h
    · cases h
    · split at h
      · rcases writeTarget_cases h with h | ⟨r, h⟩ | h | ⟨b, w, h⟩
        · exact .inr (.inl ⟨v, h⟩)
        · exact .inr (.inr (.inl ⟨r, v, h⟩))
        · exact .inr (.inr (.inr (.inl h)))
        · exact .inr (.inr (.inr (.inr ⟨b, width, w, v, h⟩)))
      · cases h

/-- What a step can do (log 1): nothing, one access, or a reset. -/
theorem step_cases {s t : State} (h : step s = .next t) :
    (s.pending = [] ∧ t = s)
      ∨ (∃ a rest, s.pending = .access a :: rest
        ∧ performAccess a { s with pending := rest } = .next t)
      ∨ ∃ rest, s.pending = .reset :: rest ∧ t = platformReset { s with pending := rest } := by
  unfold step runPending at h
  split at h
  · cases h; exact .inl ⟨by assumption, rfl⟩
  · rename_i e rest hp
    cases e with
    | access a => exact .inr (.inl ⟨a, rest, hp, h⟩)
    | reset => cases h; exact .inr (.inr ⟨rest, hp, rfl⟩)
    | otherHost a => cases h

end Sys2Proof.Machine
end

