-- ==== Sys2Proof/Laws/Bus.lean ====
section
/-! SUPPORT. The laws of the host bus: which target an address has, which register an offset has, and
a window byte after a window write. -/

namespace Sys2Proof.Machine

open Sys2Proof

/-- An address of register space (20_memory.md R60). -/
@[simp] theorem locate_register (base off : Nat) (h : off < 0x10000) :
    locate base (base + off) = some (.register off) := by
  unfold locate
  rw [if_neg (by omega), if_pos (by omega)]
  congr 2; omega

/-- An address of the TXBUF window (20_memory.md R60). -/
theorem locate_tx (base w : Nat) (h : w < 0x10000) :
    locate base (base + (0x10000 + w)) = some (.window .tx w) := by
  unfold locate
  rw [if_neg (by omega), if_neg (by omega), if_pos (by omega)]
  simp only [Option.some.injEq, Target.window.injEq, true_and]
  omega

/-- An address of the RXBUF window (20_memory.md R60). -/
theorem locate_rx (base w : Nat) (h : w < 0x10000) :
    locate base (base + (0x20000 + w)) = some (.window .rx w) := by
  unfold locate
  rw [if_neg (by omega), if_neg (by omega), if_neg (by omega), if_pos (by omega)]
  simp only [Option.some.injEq, Target.window.injEq, true_and]
  omega

/-- An address outside the FCE (20_memory.md R60). -/
theorem locate_outside (base addr : Nat) (h : addr < base ∨ base + 0x30000 ≤ addr) :
    locate base addr = none := by
  unfold locate
  split_ifs <;> first | rfl | omega

/-- The offsets of the fixed map (10_state.md R22, R35). -/
theorem registerMap_lt {off : Nat} {r : Reg} (h : registerMap.lookup off = some r) : off < 0x100 := by
  have : ∀ p ∈ registerMap, p.1 < 0x100 := by decide
  have hm : (off, r) ∈ registerMap := by
    have := List.lookup_eq_some_iff.1 h
    obtain ⟨l1, l2, h1, _⟩ := this
    rw [h1]
    simp
  exact this _ hm

/-- The register at an offset of the port table (10_state.md R37). -/
theorem regAt_sock (nsock k o : Nat) (hk : k < nsock) (ho : o < 0x20) :
    regAt nsock (0x100 + 0x20 * k + o) = (sockWordAt o).map (fun w => .sock k w) := by
  unfold regAt
  have hn : registerMap.lookup (0x100 + 0x20 * k + o) = none := by
    cases h : registerMap.lookup (0x100 + 0x20 * k + o) with
    | none => rfl
    | some r => exact absurd (registerMap_lt h) (by omega)
  rw [hn]
  simp only [sockRegAt]
  have h1 : (0x100 + 0x20 * k + o - 0x100) / 0x20 = k := by omega
  have h2 : (0x100 + 0x20 * k + o - 0x100) % 0x20 = o := by omega
  rw [h1, h2, if_pos ⟨by omega, hk⟩]

/-- The bytes of a window access stay in its buffer. -/
@[simp] theorem windowByte_setWindowByte (b : Buf) (w x : Nat) (v : Byte) (s : State) :
    windowByte b (setWindowByte b w v s) x =
      if x = w ∧ w < s.params.bufBytes then v else windowByte b s x := by
  have hp : (setWindowByte b w v s).params = s.params := by
    unfold setWindowByte
    split <;> cases b <;> rfl
  unfold windowByte
  rw [hp]
  by_cases hx : x < s.params.bufBytes
  · rw [if_pos hx, if_pos hx]
    unfold setWindowByte
    by_cases hw : w < s.params.bufBytes
    · rw [if_pos hw]
      cases b
      · rw [bufByte_tx_writeBuf]
        by_cases he : x = w
        · subst he; simp [hw]
        · rw [if_neg (by simp only [List.length_cons, List.length_nil]; omega), if_neg (by tauto)]
      · rw [bufByte_rx_writeBuf]
        by_cases he : x = w
        · subst he; simp [hw]
        · rw [if_neg (by simp only [List.length_cons, List.length_nil]; omega), if_neg (by tauto)]
    · rw [if_neg hw, if_neg (by tauto)]
  · rw [if_neg hx, if_neg hx, if_neg (by omega)]

/-- What every window byte write keeps, every window write keeps (20_memory.md R65). -/
theorem writeWindow_keeps {b : Buf} (P : State → Prop)
    (h : ∀ w v s, P s → P (setWindowByte b w v s)) (width : Width) (w : Nat) (v : Word) (s : State)
    (hs : P s) : P (writeWindow b width w v s) := by
  cases width
  · exact h _ _ _ hs
  · exact h _ _ _ (h _ _ _ hs)
  · exact h _ _ _ (h _ _ _ (h _ _ _ (h _ _ _ hs)))

/-- A window byte write changes no register and no table entry. -/
theorem setWindowByte_registers (b : Buf) (w : Nat) (v : Byte) (s : State) :
    { setWindowByte b w v s with txbuf := s.txbuf, rxbuf := s.rxbuf } = s := by
  unfold setWindowByte
  split <;> cases b <;> rfl

/-- A window write changes no register and no table entry. -/
theorem writeWindow_registers (b : Buf) (width : Width) (w : Nat) (v : Word) (s : State) :
    { writeWindow b width w v s with txbuf := s.txbuf, rxbuf := s.rxbuf } = s := by
  refine writeWindow_keeps (b := b) (fun u => { u with txbuf := s.txbuf, rxbuf := s.rxbuf } = s)
    (fun w v u hu => ?_) width w v s rfl
  have h := setWindowByte_registers b w v u
  have h2 : { setWindowByte b w v u with txbuf := s.txbuf, rxbuf := s.rxbuf }
      = { { setWindowByte b w v u with txbuf := u.txbuf, rxbuf := u.rxbuf } with
          txbuf := s.txbuf, rxbuf := s.rxbuf } := rfl
  rw [h] at h2
  exact h2.trans hu

/-- A window byte write keeps both buffers sound (20_memory.md R61). -/
theorem bufSound_setWindowByte (b : Buf) (w : Nat) (v : Byte) (s : State)
    (ht : BufSound s.params.bufBytes s.txbuf) (hr : BufSound s.params.bufBytes s.rxbuf) :
    BufSound s.params.bufBytes (setWindowByte b w v s).txbuf
      ∧ BufSound s.params.bufBytes (setWindowByte b w v s).rxbuf := by
  unfold setWindowByte
  split
  · cases b
    · exact ⟨bufSound_set ht w v (by assumption), hr⟩
    · exact ⟨ht, bufSound_set hr w v (by assumption)⟩
  · exact ⟨ht, hr⟩

/-! ## A step with a register access pending -/

/-- A step that takes a register write (20_memory.md R67, R68). -/
theorem step_regWrite {s : State} {off : Nat} {v : Word} {rest : List Event}
    (h : s.pending = regWrite s off v :: rest) (ho : off < 0x10000) (h4 : off % 4 = 0) :
    step s = writeTarget (.register off) .word v { s with pending := rest } := by
  unfold step runPending
  rw [h]
  simp only [regWrite, performEvent, performAccess]
  rw [locate_register _ _ ho]
  simp [accessAllowed, h4]

/-- A step that takes a register read (20_memory.md R67, R68). -/
theorem step_regRead {s : State} {off : Nat} {rest : List Event}
    (h : s.pending = regRead s off :: rest) (ho : off < 0x10000) (h4 : off % 4 = 0) :
    step s = .next { s with
      pending := rest
      readData := readTarget (.register off) .word { s with pending := rest } } := by
  unfold step runPending
  rw [h]
  simp only [regRead, performEvent, performAccess]
  rw [locate_register _ _ ho]
  simp [accessAllowed, h4]

end Sys2Proof.Machine
end

