-- ==== Sys2Proof/Laws/Decode.lean ====
section
/-! SUPPORT. The fields of a packed command word, and the word packed from its fields. -/

namespace Sys2Proof

@[simp] theorem opcodeField_packWord (op : BitVec 8) (b m : BitVec 1) (sl : BitVec 3) (o : BitVec 16) :
    opcodeField (packWord op b m sl o) = op := by
  ext i hi
  simp only [opcodeField, packWord, BitVec.getElem_extractLsb', BitVec.getLsbD_append]
  rw [if_pos (by omega), ← BitVec.getLsbD_eq_getElem]
  congr 1; omega

@[simp] theorem bselField_packWord (op : BitVec 8) (b m : BitVec 1) (sl : BitVec 3) (o : BitVec 16) :
    bselField (packWord op b m sl o) = b := by
  ext i hi
  simp only [bselField, packWord, BitVec.getElem_extractLsb', BitVec.getLsbD_append]
  rw [if_neg (by omega), if_pos (by omega), ← BitVec.getLsbD_eq_getElem]
  congr 1; omega

@[simp] theorem modeField_packWord (op : BitVec 8) (b m : BitVec 1) (sl : BitVec 3) (o : BitVec 16) :
    modeField (packWord op b m sl o) = m := by
  ext i hi
  simp only [modeField, packWord, BitVec.getElem_extractLsb', BitVec.getLsbD_append]
  rw [if_neg (by omega), if_neg (by omega), if_pos (by omega), ← BitVec.getLsbD_eq_getElem]
  congr 1; omega

@[simp] theorem slotField_packWord (op : BitVec 8) (b m : BitVec 1) (sl : BitVec 3) (o : BitVec 16) :
    slotField (packWord op b m sl o) = sl := by
  ext i hi
  simp only [slotField, packWord, BitVec.getElem_extractLsb', BitVec.getLsbD_append]
  rw [if_neg (by omega), if_neg (by omega), if_neg (by omega), if_pos (by omega),
    ← BitVec.getLsbD_eq_getElem]
  congr 1; omega

@[simp] theorem rsvField_packWord (op : BitVec 8) (b m : BitVec 1) (sl : BitVec 3) (o : BitVec 16) :
    rsvField (packWord op b m sl o) = 0#3 := by
  ext i hi
  simp only [rsvField, packWord, BitVec.getElem_extractLsb', BitVec.getLsbD_append]
  rw [if_neg (by omega), if_neg (by omega), if_neg (by omega), if_neg (by omega), if_pos (by omega)]
  simp

@[simp] theorem offField_packWord (op : BitVec 8) (b m : BitVec 1) (sl : BitVec 3) (o : BitVec 16) :
    offField (packWord op b m sl o) = o := by
  ext i hi
  simp only [offField, packWord, BitVec.getElem_extractLsb', BitVec.getLsbD_append]
  rw [if_neg (by omega), if_neg (by omega), if_neg (by omega), if_neg (by omega), if_neg (by omega),
    ← BitVec.getLsbD_eq_getElem]
  congr 1; omega

/-- A word whose `RSV` is zero is the word packed from its other fields. -/
theorem packWord_fields (w : Word) (h : rsvField w = 0#3) :
    packWord (opcodeField w) (bselField w) (modeField w) (slotField w) (offField w) = w := by
  rw [packWord, ← h]
  ext i hi
  simp only [opcodeField, bselField, modeField, slotField, offField, rsvField,
    BitVec.getElem_append, BitVec.getElem_extractLsb']
  rw [← BitVec.getLsbD_eq_getElem]
  split_ifs <;> congr 1 <;> omega

@[simp] theorem opcodeOf_opcodeCode (op : Opcode) : opcodeOf (opcodeCode op) = some op := by
  cases op <;> rfl

/-- Only an assigned code selects an opcode. -/
theorem opcodeOf_eq_some {b : BitVec 8} {op : Opcode} (h : opcodeOf b = some op) :
    opcodeCode op = b := by
  have := List.find?_some h
  simpa using this

@[simp] theorem bufOf_bufBit (b : Buf) : bufOf (bufBit b) = b := by cases b <;> rfl

@[simp] theorem clearModeOf_clearModeBit (m : ClearMode) : clearModeOf (clearModeBit m) = m := by
  cases m <;> rfl

theorem bufBit_bufOf (b : BitVec 1) : bufBit (bufOf b) = b := by
  revert b; decide

theorem clearModeBit_clearModeOf (b : BitVec 1) : clearModeBit (clearModeOf b) = b := by
  revert b; decide

end Sys2Proof
end

