-- ==== Sys2Proof/Laws/Frames.lean ====
section
/-! SUPPORT. What parsing, admission and the table search answer, in the words of the rules
(Safety.lean): the cases of `parseRx` and `admission`, the fields of a big-endian word, the first match. -/

namespace Sys2Proof.Machine

open Sys2Proof

/-! ## Fields of big-endian words -/

theorem be32_eq_append (B : Nat → Byte) (i : Nat) :
    be32 B i = (be16 B i ++ be16 B (i + 2) : BitVec 32) := by
  apply BitVec.eq_of_getLsbD_eq
  intro j hj
  simp only [be32, be16, BitVec.getLsbD_append]
  split_ifs <;> first | rfl | omega

theorem be48_eq_append (B : Nat → Byte) (i : Nat) :
    be48 B i = (be32 B i ++ be16 B (i + 4) : BitVec 48) := by
  apply BitVec.eq_of_getLsbD_eq
  intro j hj
  simp only [be48, be32, be16, BitVec.getLsbD_append]
  split_ifs <;> first | rfl | omega

/-- The low half of a 32-bit field. -/
theorem be32_low (B : Nat → Byte) (i : Nat) : (be32 B i).extractLsb' 0 16 = be16 B (i + 2) := by
  rw [be32_eq_append]; exact BitVec.extractLsb'_append_eq_right

/-- The high half of a 32-bit field. -/
theorem be32_high (B : Nat → Byte) (i : Nat) : (be32 B i).extractLsb' 16 16 = be16 B i := by
  rw [be32_eq_append]; exact BitVec.extractLsb'_append_eq_left

/-- The second byte of a 32-bit field. -/
theorem be32_byte1 (B : Nat → Byte) (i : Nat) : (be32 B i).extractLsb' 16 8 = B (i + 1) := by
  apply BitVec.eq_of_getLsbD_eq
  intro j hj
  simp only [be32, BitVec.getLsbD_extractLsb', BitVec.getLsbD_append]
  split_ifs <;> first | omega | (simp only [hj, decide_true, Bool.true_and]; congr 1; omega)

/-- The `_HI` register of a MAC (10_state.md R35). -/
theorem be48_high (B : Nat → Byte) (i : Nat) : (be48 B i).extractLsb' 16 32 = be32 B i := by
  rw [be48_eq_append]; exact BitVec.extractLsb'_append_eq_left

/-- The `_LO` register of a MAC (10_state.md R35). -/
theorem be48_low (B : Nat → Byte) (i : Nat) : (be48 B i).extractLsb' 0 16 = be16 B (i + 4) := by
  rw [be48_eq_append]; exact BitVec.extractLsb'_append_eq_right

theorem tcpDoff_eq (B : Nat → Byte) : tcpDoff B = (B 46).toNat / 16 := by
  have := (B 46).isLt
  simp [tcpDoff]; omega

/-! ## Parsing -/

/-- The record of a frame whose L3 is valid, before its transport level (42_parse_validate.md R182). -/
def recordL3 (s : State) : ParseRecord := parseL3 (bufByte .rx s) (parseL2 (bufByte .rx s))

theorem recTlen_recordL3 (s : State) :
    recTlen (recordL3 s) = (be16 (bufByte .rx s) 16).toNat :=
  congrArg BitVec.toNat (be32_low (bufByte .rx s) 14)

theorem recProto_recordL3 (s : State) : recProto (recordL3 s) = bufByte .rx s 23 :=
  be32_byte1 (bufByte .rx s) 22

/-- `udp_ok` is the structure of R184. -/
theorem udpOk_iff (s : State) :
    udpOk (bufByte .rx s) (recTlen (recordL3 s))
        (decide (14 + recTlen (recordL3 s) ≤ s.rxLen.toNat)) = true ↔ UdpStructure s := by
  rw [recTlen_recordL3]
  simp only [udpOk, Bool.and_eq_true, decide_eq_true_eq]
  exact ⟨fun ⟨⟨⟨a, b⟩, c⟩, d⟩ => ⟨a, b, c, d⟩, fun ⟨a, b, c, d⟩ => ⟨⟨⟨a, b⟩, c⟩, d⟩⟩

/-- `tcp_ok` is the structure of R185. -/
theorem tcpOk_iff (s : State) :
    tcpOk (bufByte .rx s) (recTlen (recordL3 s))
        (decide (14 + recTlen (recordL3 s) ≤ s.rxLen.toNat)) = true ↔ TcpStructure s := by
  rw [recTlen_recordL3]
  simp only [tcpOk, Bool.and_eq_true, decide_eq_true_eq, tcpDoff_eq]
  exact ⟨fun ⟨⟨⟨a, b⟩, c⟩, d⟩ => ⟨a, b, c, d⟩, fun ⟨a, b, c, d⟩ => ⟨⟨⟨a, b⟩, c⟩, d⟩⟩

/-- Every answer of `parse()` (42_parse_validate.md R182, R184 to R186). -/
theorem parseRx_cases (s : State) :
    (s.rxLen.toNat < 14 ∧ parseRx s = ParseRecord.empty)
      ∨ (14 ≤ s.rxLen.toNat ∧ ¬ L3Valid s ∧ parseRx s = parseL2 (bufByte .rx s))
      ∨ (L3Valid s ∧ bufByte .rx s 23 = 17#8 ∧ UdpStructure s
        ∧ parseRx s = parseUdp (bufByte .rx s) (recordL3 s))
      ∨ (L3Valid s ∧ bufByte .rx s 23 = 17#8 ∧ ¬ UdpStructure s ∧ parseRx s = recordL3 s)
      ∨ (L3Valid s ∧ bufByte .rx s 23 = 6#8 ∧ TcpStructure s
        ∧ parseRx s = parseTcp (bufByte .rx s) (recordL3 s))
      ∨ (L3Valid s ∧ bufByte .rx s 23 = 6#8 ∧ ¬ TcpStructure s ∧ parseRx s = recordL3 s)
      ∨ (L3Valid s ∧ bufByte .rx s 23 = 1#8 ∧ parseRx s = { recordL3 s with icmp := true })
      ∨ (L3Valid s ∧ bufByte .rx s 23 ≠ 17#8 ∧ bufByte .rx s 23 ≠ 6#8 ∧ bufByte .rx s 23 ≠ 1#8
        ∧ parseRx s = recordL3 s) := by
  rcases parseFrame_cases (bufByte .rx s) s.rxLen.toNat with ⟨h, e⟩ | ⟨h1, h2, e⟩ | ⟨h1, h2, e⟩
  · exact .inl ⟨h, e⟩
  · refine .inr (.inl ⟨h1, fun ⟨a, b⟩ => ?_, e⟩)
    rcases h2 with h2 | h2
    · exact h2 b
    · omega
  · have hl : L3Valid s := ⟨h1, h2⟩
    have e' : parseRx s = parseL4 (bufByte .rx s) s.rxLen.toNat (recordL3 s) := e
    unfold parseL4 at e'
    rw [recProto_recordL3] at e'
    split at e'
    · rename_i hp
      split at e'
      · rename_i hu
        exact .inr (.inr (.inl ⟨hl, hp, (udpOk_iff s).1 hu, e'⟩))
      · rename_i hu
        exact .inr (.inr (.inr (.inl ⟨hl, hp, fun h => hu ((udpOk_iff s).2 h), e'⟩)))
    · rename_i hp17
      split at e'
      · rename_i hp
        split at e'
        · rename_i hu
          exact .inr (.inr (.inr (.inr (.inl ⟨hl, hp, (tcpOk_iff s).1 hu, e'⟩))))
        · rename_i hu
          exact .inr (.inr (.inr (.inr (.inr (.inl
            ⟨hl, hp, fun h => hu ((tcpOk_iff s).2 h), e'⟩)))))
      · rename_i hp6
        split at e'
        · rename_i hp
          exact .inr (.inr (.inr (.inr (.inr (.inr (.inl ⟨hl, hp, e'⟩))))))
        · rename_i hp1
          exact .inr (.inr (.inr (.inr (.inr (.inr (.inr ⟨hl, hp17, hp6, hp1, e'⟩))))))

/-! ## Admission -/

/-- Every answer of the admission function `admission` (42_parse_validate.md R190). -/
theorem admit_cases (s : State) :
    (s.rxLen.toNat < 42 ∧ admission s = .short)
      ∨ (42 ≤ s.rxLen.toNat ∧ ¬ MacAccepted s ∧ admission s = .mac)
      ∨ (42 ≤ s.rxLen.toNat ∧ MacAccepted s ∧ be16 (bufByte .rx s) 12 ≠ 0x0800#16
        ∧ admission s = .etype)
      ∨ (42 ≤ s.rxLen.toNat ∧ MacAccepted s ∧ be16 (bufByte .rx s) 12 = 0x0800#16
        ∧ ¬ IpAccepted s ∧ admission s = .ipdst)
      ∨ (42 ≤ s.rxLen.toNat ∧ MacAccepted s ∧ be16 (bufByte .rx s) 12 = 0x0800#16
        ∧ IpAccepted s ∧ s.rxLen.toNat < (be16 (bufByte .rx s) 16).toNat ∧ admission s = .tlen)
      ∨ (Admitted s ∧ admission s = .none) := by
  by_cases h1 : s.rxLen.toNat < 42
  · exact .inl ⟨h1, if_pos h1⟩
  have h42 : 42 ≤ s.rxLen.toNat := by omega
  by_cases h2 : MacAccepted s
  swap
  · exact .inr (.inl ⟨h42, h2, (if_neg h1).trans (if_pos h2)⟩)
  by_cases h3 : be16 (bufByte .rx s) 12 = 0x0800#16
  swap
  · exact .inr (.inr (.inl ⟨h42, h2, h3,
      (if_neg h1).trans ((if_neg (not_not.2 h2)).trans (if_pos h3))⟩))
  by_cases h4 : IpAccepted s
  swap
  · exact .inr (.inr (.inr (.inl ⟨h42, h2, h3, h4, (if_neg h1).trans
      ((if_neg (not_not.2 h2)).trans ((if_neg (not_not.2 h3)).trans (if_pos h4)))⟩)))
  by_cases h5 : s.rxLen.toNat < (be16 (bufByte .rx s) 16).toNat
  · exact .inr (.inr (.inr (.inr (.inl ⟨h42, h2, h3, h4, h5, (if_neg h1).trans
      ((if_neg (not_not.2 h2)).trans ((if_neg (not_not.2 h3)).trans
        ((if_neg (not_not.2 h4)).trans (if_pos h5))))⟩))))
  · exact .inr (.inr (.inr (.inr (.inr ⟨⟨h42, h2, h3, h4, Nat.le_of_not_lt h5⟩,
      (if_neg h1).trans ((if_neg (not_not.2 h2)).trans ((if_neg (not_not.2 h3)).trans
        ((if_neg (not_not.2 h4)).trans (if_neg h5))))⟩))))

/-! ## The table search -/

/-- A search of the table finds the first entry with a property. -/
theorem findIdx?_of_firstAt {s : State} {P : Sock → Prop} {f : Sock → Bool}
    (hf : ∀ e, f e = true ↔ P e) {k : Nat} (h : FirstAt s P k) : s.socks.findIdx? f = some k := by
  obtain ⟨hk, hP, hj⟩ := h
  rw [List.findIdx?_eq_some_iff_getElem]
  refine ⟨hk, ?_, fun j hj' h2 => ?_⟩
  · rw [hf]
    simpa [sockAt, hk] using hP
  · rw [hf] at h2
    exact hj j hj' (by simpa [sockAt, show j < s.socks.length by omega] using h2)

/-- A search of the table finds nothing when no entry has the property. -/
theorem findIdx?_of_noEntry {s : State} {P : Sock → Prop} {f : Sock → Bool}
    (hf : ∀ e, f e = true ↔ P e) (h : NoEntry s P) : s.socks.findIdx? f = none := by
  rw [List.findIdx?_eq_none_iff]
  intro x hx
  obtain ⟨j, hj, rfl⟩ := List.getElem_of_mem hx
  rw [← Bool.not_eq_true, hf]
  intro h2
  exact h j hj (by simpa [sockAt, hj] using h2)

/-- Entry `j` after entry `k` was replaced. -/
theorem sockAt_setSock (s : State) (k j : Nat) (e : Sock) (h : k < s.socks.length) :
    sockAt (setSock k e s) j = if j = k then e else sockAt s j := by
  simp only [sockAt, setSock, List.getD_eq_getElem?_getD, List.getElem?_set]
  split_ifs <;> first | rfl | omega

end Sys2Proof.Machine
end

