-- ==== Sys2Proof/Laws/PerInstr.lean ====
section
/-! SUPPORT. Statements made once for every command, one lemma per constructor (LAWS.json). -/

namespace Sys2Proof.Laws.EncodedFields

/-- The encoded word carries the command's opcode, has `RSV` zero, and has every field the command
does not use zero (30_encoding.md R92, R93). -/
def Statement (i : Instr) : Prop :=
  opcodeField (encode i) = opcodeCode (opcodeOfInstr i)
    ∧ rsvField (encode i) = 0#3
    ∧ unusedFieldsZero (opcodeOfInstr i) (encode i) = true

theorem nop : Statement .nop := by
  unfold Statement; decide

theorem ethAdd (off : Nat) : Statement (.ethAdd off) := by
  simp [Statement, encode, opcodeOfInstr, unusedFieldsZero, usesOff]

theorem ipAdd (off : Nat) : Statement (.ipAdd off) := by
  simp [Statement, encode, opcodeOfInstr, unusedFieldsZero, usesOff]

theorem udpAdd (off : Nat) : Statement (.udpAdd off) := by
  simp [Statement, encode, opcodeOfInstr, unusedFieldsZero, usesOff]

theorem tcpAdd (off : Nat) : Statement (.tcpAdd off) := by
  simp [Statement, encode, opcodeOfInstr, unusedFieldsZero, usesOff]

theorem csum (off : Nat) (buf : Buf) : Statement (.csum off buf) := by
  simp [Statement, encode, opcodeOfInstr, unusedFieldsZero, usesOff, usesBsel]

theorem parse : Statement .parse := by
  unfold Statement; decide

theorem ipCheck : Statement .ipCheck := by
  unfold Statement; decide

theorem udpVerify : Statement .udpVerify := by
  unfold Statement; decide

theorem tcpVerify : Statement .tcpVerify := by
  unfold Statement; decide

theorem dispatch : Statement .dispatch := by
  unfold Statement; decide

theorem sockAlloc : Statement .sockAlloc := by
  unfold Statement; decide

theorem sockClear (slot : Nat) (mode : ClearMode) : Statement (.sockClear slot mode) := by
  simp [Statement, encode, opcodeOfInstr, unusedFieldsZero, usesSlot]

end Sys2Proof.Laws.EncodedFields
end

