-- ==== Sys2Proof/Tests/Slice0.lean ====
section
/-! SUPPORT. Tests: the well-formedness smoke, one written-out word per command, one step of each command
with the values of 95_test_vectors.md, and for each statement with hypotheses a state that meets them. -/

namespace Sys2Proof.Tests

-- Each theorem is checked before the next is read: the kernel evaluations below would else wait on one
-- another in many threads.
set_option Elab.async false

open Sys2Proof Sys2Proof.Machine

/-! ## Helpers -/

/-- The start state S0 of 95_test_vectors.md section 0. -/
def s0 : State :=
  { State.reset with macHi := 0x02000000#32, macLo := 0x0001#16, ipAddr := 0xC000020A#32 }

/-- Bytes at consecutive offsets. -/
def cellsFrom (off : Nat) : List Byte → List Host.Cell
  | [] => []
  | b :: bs => (off, b) :: cellsFrom (off + 1) bs

/-- A buffer with these bytes from offset `off`. -/
def memAt (off : Nat) (bs : List Byte) : Memory := { cells := cellsFrom off bs }

/-- S0 with a frame of `n` bytes received on channel 2. -/
def received (frame : List Byte) (n : Nat) : State :=
  { s0 with rxbuf := memAt 0 frame, rxLen := BitVec.ofNat 16 n, rxChan := 2#8 }

/-- What a part of the next state is, if there is one. -/
def part {α : Type} (o : Answer) (f : State → α) : Option α :=
  match o with
  | .next t => some (f t)
  | .fault _ => none
  | .refused _ => none

/-- Whether the answer is a next state. -/
def isNext (o : Answer) : Bool := (part o (fun _ => ())).isSome

theorem exists_of_isNext {o : Answer} (h : isNext o = true) : ∃ t, o = .next t := by
  cases o with
  | next t => exact ⟨t, rfl⟩
  | fault r => cases h
  | refused r => cases h

/-- The refusal, if the answer is one. -/
def refusalOf (o : Answer) : Option Refusal :=
  match o with
  | .next _ => none
  | .fault _ => none
  | .refused r => some r

/-- The fault, if the answer is one. -/
def faultOf (o : Answer) : Option Fault :=
  match o with
  | .next _ => none
  | .fault r => some r
  | .refused _ => none

/-- Bytes of `TXBUF`. -/
def txBytes (off n : Nat) (s : State) : List Byte := readRange (bufByte .tx s) off n

/-- The machine with one event pending. -/
def withEvent (e : Event) (s : State) : State := { s with pending := [e] }

/-- Frame P2 of 95_test_vectors.md: 47 bytes of UDP from the peer to port 1234. -/
def frameP2 : List Byte :=
  [0x02#8, 0x00#8, 0x00#8, 0x00#8, 0x00#8, 0x01#8, 0x02#8, 0x00#8, 0x00#8, 0x00#8]
    ++ [0x00#8, 0x02#8, 0x08#8, 0x00#8, 0x45#8, 0x00#8, 0x00#8, 0x21#8, 0x00#8, 0x00#8]
    ++ [0x00#8, 0x00#8, 0x40#8, 0x11#8, 0x8E#8, 0x87#8, 0xC6#8, 0x33#8, 0x64#8, 0x07#8]
    ++ [0xC0#8, 0x00#8, 0x02#8, 0x0A#8, 0x23#8, 0x28#8, 0x04#8, 0xD2#8, 0x00#8, 0x0D#8]
    ++ [0xA7#8, 0xC2#8, 0x68#8, 0x65#8, 0x6C#8, 0x6C#8, 0x6F#8]

/-- Frame P3 of 95_test_vectors.md: a 58-byte TCP SYN to port 80. -/
def frameP3 : List Byte :=
  [0x02#8, 0x00#8, 0x00#8, 0x00#8, 0x00#8, 0x01#8, 0x02#8, 0x00#8, 0x00#8, 0x00#8]
    ++ [0x00#8, 0x02#8, 0x08#8, 0x00#8, 0x45#8, 0x00#8, 0x00#8, 0x2C#8, 0x00#8, 0x00#8]
    ++ [0x00#8, 0x00#8, 0x40#8, 0x06#8, 0x8E#8, 0x87#8, 0xC6#8, 0x33#8, 0x64#8, 0x07#8]
    ++ [0xC0#8, 0x00#8, 0x02#8, 0x0A#8, 0xC3#8, 0x50#8, 0x00#8, 0x50#8, 0x01#8, 0x00#8]
    ++ [0x00#8, 0x00#8, 0x00#8, 0x00#8, 0x00#8, 0x00#8, 0x60#8, 0x02#8, 0x20#8, 0x00#8]
    ++ [0xC7#8, 0x40#8, 0x00#8, 0x00#8, 0x02#8, 0x04#8, 0x05#8, 0xB4#8]

/-- A port table of five entries whose first has the given one (95_test_vectors.md V4). -/
def tableWith (e : Sock) : List Sock := [e, Sock.empty, Sock.empty, Sock.empty, Sock.empty]

/-- The UDP entry on port 1234. -/
def udpEntry : Sock := { Sock.empty with lport := 1234#16 }

/-- The TCP listener on port 80. -/
def tcpListener : Sock := { Sock.empty with lport := 80#16, kind := .stream }

/-- Frame P2 received, with a UDP entry on its port. -/
def gotP2 : State := { received frameP2 47 with socks := tableWith udpEntry }

/-- Frame P3 received, with a listener on its port. -/
def gotP3 : State := { received frameP3 58 with socks := tableWith tcpListener }

/-! ## Well-formedness: an ill-formed term for each check -/

theorem test_wellFormed_ethAdd_off : WellFormed (.ethAdd 65536) = false := by decide

theorem test_wellFormed_ipAdd_off : WellFormed (.ipAdd 65536) = false := by decide

theorem test_wellFormed_udpAdd_off : WellFormed (.udpAdd 65536) = false := by decide

theorem test_wellFormed_tcpAdd_off : WellFormed (.tcpAdd 65536) = false := by decide

theorem test_wellFormed_csum_off : WellFormed (.csum 65536 .tx) = false := by decide

theorem test_wellFormed_sockClear_slot : WellFormed (.sockClear 8 .free) = false := by decide

/-! ## Decoding: words written out from the fields of 30_encoding.md R91 and the opcodes of R93 -/

theorem test_decode_nop :
    decode 0b00000000000000000000000000000000#32 = .ok (.nop) := by rfl

theorem test_decode_ethAdd :
    decode 0b11111111111111110000000000000001#32 = .ok (.ethAdd 65535) := by rfl

theorem test_decode_ipAdd :
    decode 0b00000000000011100000000000000010#32 = .ok (.ipAdd 14) := by rfl

theorem test_decode_udpAdd :
    decode 0b10000000000000010000000000000011#32 = .ok (.udpAdd 32769) := by rfl

theorem test_decode_tcpAdd :
    decode 0b00000000001000100000000000000100#32 = .ok (.tcpAdd 34) := by rfl

theorem test_decode_csum_rx :
    decode 0b00000000000011100000000100001000#32 = .ok (.csum 14 .rx) := by rfl

theorem test_decode_csum_tx :
    decode 0b00001000000000000000000000001000#32 = .ok (.csum 2048 .tx) := by rfl

theorem test_decode_parse :
    decode 0b00000000000000000000000000010000#32 = .ok (.parse) := by rfl

theorem test_decode_ipCheck :
    decode 0b00000000000000000000000000010001#32 = .ok (.ipCheck) := by rfl

theorem test_decode_udpVerify :
    decode 0b00000000000000000000000000010010#32 = .ok (.udpVerify) := by rfl

theorem test_decode_tcpVerify :
    decode 0b00000000000000000000000000010011#32 = .ok (.tcpVerify) := by rfl

theorem test_decode_dispatch :
    decode 0b00000000000000000000000000100000#32 = .ok (.dispatch) := by rfl

theorem test_decode_sockAlloc :
    decode 0b00000000000000000000000000110000#32 = .ok (.sockAlloc) := by rfl

theorem test_decode_sockClear_template :
    decode 0b00000000000000000000010000110001#32 = .ok (.sockClear 1 .template) := by rfl

theorem test_decode_sockClear_free :
    decode 0b00000000000000000001111000110001#32 = .ok (.sockClear 7 .free) := by rfl

theorem test_decode_unassigned_opcode :
    decode 0b00000000000000000000000000000101#32 = .error .illegal := by rfl

theorem test_decode_rsv_bit :
    decode 0b00000000000000000010000000000000#32 = .error .reserved := by rfl

theorem test_decode_off_of_parse :
    decode 0b00000000000000010000000000010000#32 = .error .reserved := by rfl

theorem test_decode_bsel_of_ethAdd :
    decode 0b00000000000000000000000100000001#32 = .error .reserved := by rfl

theorem test_decode_mode_of_csum :
    decode 0b00000000000011100000001100001000#32 = .error .reserved := by rfl

theorem test_decode_slot_of_dispatch :
    decode 0b00000000000000000001000000100000#32 = .error .reserved := by rfl

theorem test_decode_off_of_sockClear :
    decode 0b00000000000000010001110000110001#32 = .error .reserved := by rfl

/-- 30_encoding.md R99: `match OR (slot << 10) OR (mode << 9)`. -/
theorem test_encode_sockClear : encode (.sockClear 1 .template) = 0x00000431#32 := by decide

theorem test_decodeTableWord_short : decodeTableWord 8 0x11 = some .ipCheck := by rfl

/-! ## One step of each command (95_test_vectors.md V1 to V6) -/

/-- V6: the legal word of `NOP` writes `ERRCODE` 0 and keeps `STICKY` (10_state.md R24). -/
theorem test_nop_keeps_sticky :
    part (issueCommand 0#32 { s0 with status := { errcode := .range, sticky := true } })
      (fun t => (readReg t .status, t.result)) = some (0x00000100#32, 0#32) := by
  decide +kernel

/-- V2, broadcast. -/
theorem test_ethAdd_bytes :
    part (exec (.ethAdd 0) { s0 with a0 := 0xFFFFFFFF#32, a1 := 0x0800FFFF#32 })
      (fun t => (t.result, txBytes 0 14 t))
      = some (14#32,
        [0xFF#8, 0xFF#8, 0xFF#8, 0xFF#8, 0xFF#8, 0xFF#8, 0x02#8, 0x00#8, 0x00#8, 0x00#8,
          0x00#8, 0x01#8, 0x08#8, 0x00#8]) := by
  decide +kernel

/-- V6: offset 2035 is one past the last legal one. -/
theorem test_ethAdd_range :
    part (exec (.ethAdd 2035) s0) (fun t => (readReg t .status, t.txbuf))
      = some (0x00000103#32, s0.txbuf) := by
  decide +kernel

/-- V2: the identification wraps. -/
theorem test_ipAdd_bytes :
    part (exec (.ipAdd 14) { s0 with
        ipIdent := 0xFFFF#16, ipAddr := 0#32, a0 := 0xFFFFFFFF#32, a1 := 0x00080011#32 })
      (fun t => (t.result, t.ipIdent, txBytes 14 20 t))
      = some (20#32, 0x0000#16,
        [0x45#8, 0x00#8, 0x00#8, 0x1C#8, 0xFF#8, 0xFF#8, 0x00#8, 0x00#8, 0x40#8, 0x11#8,
          0x7A#8, 0xD2#8, 0x00#8, 0x00#8, 0x00#8, 0x00#8, 0xFF#8, 0xFF#8, 0xFF#8, 0xFF#8]) := by
  decide +kernel

/-- V6: `E_LENGTH` comes before `E_RANGE`, and nothing advances. -/
theorem test_ipAdd_length_first :
    part (exec (.ipAdd 65535) { s0 with a1 := 0xFFFF0011#32 })
      (fun t => (readReg t .status, t.ipIdent)) = some (0x00000104#32, 0x0000#16) := by
  decide +kernel

/-- V2: payload "hello" at 42. -/
theorem test_udpAdd_bytes :
    part (exec (.udpAdd 34) { s0 with
        a0 := 0xC6336407#32, a1 := 0x232804D2#32, a2 := 5#32,
        txbuf := memAt 42 [0x68#8, 0x65#8, 0x6C#8, 0x6C#8, 0x6F#8] })
      (fun t => (t.result, txBytes 34 13 t))
      = some (8#32,
        [0x04#8, 0xD2#8, 0x23#8, 0x28#8, 0x00#8, 0x0D#8, 0xA7#8, 0xC2#8, 0x68#8, 0x65#8,
          0x6C#8, 0x6C#8, 0x6F#8]) := by
  decide +kernel

/-- V6: the payload passes the end of the buffer. -/
theorem test_udpAdd_range :
    part (exec (.udpAdd 2040) { s0 with a2 := 1#32 }) (fun t => readReg t .status)
      = some 0x00000103#32 := by
  decide +kernel

/-- V2: SYN with ACK, so the MSS option is present. -/
theorem test_tcpAdd_syn_bytes :
    part (exec (.tcpAdd 34) { s0 with
        a0 := 0xC6336407#32, a1 := 0xC3500050#32, a2 := 0x12345678#32, a3 := 0x01000001#32,
        a4 := 0x05B40012#32 })
      (fun t => (t.result, txBytes 34 24 t))
      = some (24#32,
        [0x00#8, 0x50#8, 0xC3#8, 0x50#8, 0x12#8, 0x34#8, 0x56#8, 0x78#8, 0x01#8, 0x00#8,
          0x00#8, 0x01#8, 0x60#8, 0x12#8, 0x05#8, 0xB4#8, 0x78#8, 0xCF#8, 0x00#8, 0x00#8,
          0x02#8, 0x04#8, 0x05#8, 0xB4#8]) := by
  decide +kernel

/-- V2: an ACK, without the option. -/
theorem test_tcpAdd_ack_bytes :
    part (exec (.tcpAdd 34) { s0 with
        a0 := 0xC6336407#32, a1 := 0xC3500050#32, a2 := 0x12345679#32, a3 := 0x01000001#32,
        a4 := 0x05B40010#32 })
      (fun t => (t.result, txBytes 34 20 t))
      = some (20#32,
        [0x00#8, 0x50#8, 0xC3#8, 0x50#8, 0x12#8, 0x34#8, 0x56#8, 0x79#8, 0x01#8, 0x00#8,
          0x00#8, 0x01#8, 0x50#8, 0x10#8, 0x05#8, 0xB4#8, 0x90#8, 0x8C#8, 0x00#8, 0x00#8]) := by
  decide +kernel

/-- V1: the IP header of frame P2. -/
theorem test_csum_ip_header :
    part (exec (.csum 14 .rx) { received frameP2 47 with a1 := 20#32 }) (fun t => t.result)
      = some 0x0000FFFF#32 := by
  decide +kernel

/-- V1: three bytes, the odd one as the high byte. -/
theorem test_csum_odd_length :
    part (exec (.csum 0 .tx) { s0 with a1 := 3#32, txbuf := memAt 0 [0x12#8, 0x34#8, 0x56#8] })
      (fun t => t.result)
      = some 0x00006834#32 := by
  decide +kernel

/-- V3: `PARSE` of frame P2. -/
theorem test_parse_udp :
    part (exec .parse (received frameP2 47))
      (fun t => (t.result, readReg t (.pr .esrcLo), readReg t (.pr .ports), readReg t (.pr .data)))
      = some (0x00000007#32, 0x00000002#32, 0x232804D2#32, 0x002A0005#32) := by
  decide +kernel

/-- V3: 34 bytes of frame P2 are L3 but no UDP. -/
theorem test_parse_cut :
    part (exec .parse (received frameP2 34))
      (fun t => (t.result, readReg t (.pr .ipw0), readReg t (.pr .data)))
      = some (0x00000003#32, 0x45000021#32, 0#32) := by
  decide +kernel

/-- V4: 42 bytes are enough, 41 are short. -/
theorem test_ipCheck_accepts :
    part (exec .ipCheck (received frameP2 42)) (fun t => (t.result, readReg t .verdict))
      = some (1#32, 0x0000FF00#32) := by
  decide +kernel

theorem test_ipCheck_short :
    part (exec .ipCheck (received frameP2 41)) (fun t => (t.result, readReg t .verdict))
      = some (0#32, 0x0002FF01#32) := by
  decide +kernel

/-- V3. -/
theorem test_udpVerify_valid :
    part (exec .udpVerify (received frameP2 47)) (fun t => t.result) = some 0xFFFF0003#32 := by
  decide +kernel

/-- V3: frame P3 is not UDP. -/
theorem test_udpVerify_tcp_frame :
    part (exec .udpVerify (received frameP3 58)) (fun t => t.result) = some 0#32 := by
  decide +kernel

/-- V3. -/
theorem test_tcpVerify_valid :
    part (exec .tcpVerify (received frameP3 58)) (fun t => t.result) = some 0xFFFF0003#32 := by
  decide +kernel

/-- V3: frame P2 is not TCP. -/
theorem test_tcpVerify_udp_frame :
    part (exec .tcpVerify (received frameP2 47)) (fun t => t.result) = some 0#32 := by
  decide +kernel

/-- V4 and E7: frame P2 goes to slot 0 and records the sender. -/
theorem test_dispatch_udp :
    part (exec .dispatch gotP2)
      (fun t => (t.result, readReg t (.sock 0 .ctl), readReg t (.sock 0 .rport),
        readReg t (.sock 0 .rxoff), readReg t (.sock 0 .rxlen)))
      = some (0x00000004#32, 0x000404D2#32, 9000#32, 42#32, 5#32) := by
  decide +kernel

/-- V4: a SYN goes to the listener, which records no sender. -/
theorem test_dispatch_tcp_listener :
    part (exec .dispatch gotP3)
      (fun t => (t.result, readReg t (.sock 0 .ctl), readReg t (.sock 0 .rport),
        readReg t (.sock 0 .rxoff), readReg t (.sock 0 .rxlen)))
      = some (0x00000005#32, 0x00050050#32, 0#32, 58#32, 0#32) := by
  decide +kernel

/-- V5: the second slot is the first free one. -/
theorem test_sockAlloc_second :
    part (exec .sockAlloc { s0 with a0 := 0x00010050#32, socks := tableWith udpEntry })
      (fun t => (t.result, readReg t (.sock 1 .ctl))) = some (1#32, 0x00010050#32) := by
  decide +kernel

/-- V5: port 0 is `E_ARG`, whatever the kind bit. -/
theorem test_sockAlloc_port_zero :
    part (exec .sockAlloc { s0 with a0 := 0x00010000#32 }) (fun t => readReg t .status)
      = some 0x00000105#32 := by
  decide +kernel

/-- V5: the template keeps port and kind only. -/
theorem test_sockClear_template :
    part (exec (.sockClear 0 .template) { s0 with
        socks := tableWith { tcpListener with rbound := true, rxpend := true, rip := 0xFFFFFFFF#32 } })
      (fun t => (t.result, readReg t (.sock 0 .ctl), readReg t (.sock 0 .rip)))
      = some (0#32, 0x00010050#32, 0#32) := by
  decide +kernel

/-- V5: slot 5 of a table of five. -/
theorem test_sockClear_slot :
    part (issueCommand 0x00001431#32 s0) (fun t => readReg t .status) = some 0x00000106#32 := by
  decide +kernel

/-! ## The host bus (95_test_vectors.md V7) -/

/-- V7: a length of 5000 clamps to 2048. -/
theorem test_rxLen_clamps :
    part (step (withEvent (regWrite s0 0x058 5000#32) gotP2))
      (fun t => (t.rxLen, readReg t (.sock 0 .ctl))) = some (2048#16, 0x000004D2#32) := by
  decide +kernel

/-- 20_memory.md R65: the byte at the lowest offset is in bits 7:0. -/
theorem test_window_word :
    part (step (withEvent (winRead s0 .rx .word 12) (received frameP2 47))) (fun t => t.readData)
      = some 0x00450008#32 := by
  decide +kernel

/-- 20_memory.md R67, 93_implementation_defined.md I1. -/
theorem test_register_half_refused :
    refusalOf (step (withEvent (.access (.read 0x058 .half)) s0)) = some .subWordRegisterAccess := by
  decide +kernel

/-- 20_memory.md R67, 93_implementation_defined.md I2. -/
theorem test_window_misaligned_refused :
    refusalOf (step (withEvent (winRead s0 .rx .word 2) s0)) = some .misalignedWindowAccess := by
  decide +kernel

/-- Log 7. -/
theorem test_outside_faults :
    faultOf (step (withEvent (.access (.read 0x30000 .word)) s0)) = some .outsideAddressSpace := by
  decide +kernel

/-- `withFetchWord` puts the command before everything else the host does. -/
theorem test_withFetchWord_runs :
    part (step (State.reset.withFetchWord 32 0x00000431)) (fun t => (t.cmd, t.result))
      = some (0x00000431#32, 1#32) := by
  decide +kernel

/-! ## Witnesses: a state and operands that meet the hypotheses of each statement, clause by clause -/

/-- A machine with these parameters. -/
def withParams (p : Params) : State := State.resetWith p 0

/-- A machine at `CODEC_BASE` 0x40000000 with the largest buffers. -/
def sLarge : State :=
  withParams { bufBytes := 65535, nsock := 8, dataChan := 2#8, codecBase := 0x40000000 }

/-- A machine with the smallest legal parameters. -/
def sSmall : State :=
  withParams { bufBytes := 64, nsock := 1, dataChan := 0#8, codecBase := 0x40000000 }

/-- A frame with one byte replaced. -/
def patched (frame : List Byte) (i : Nat) (b : Byte) : List Byte := frame.set i b

theorem bufSound_of {n : Nat} {m : Memory}
    (h : m.cells.Pairwise (fun x y => x.1 < y.1) ∧ ∀ c ∈ m.cells, c.1 < n) : BufSound n m := h

theorem recordSound_empty : RecordSound ParseRecord.empty := by
  constructor <;> decide

/-- What `Inv` asks of a state whose parse record is empty, as one decidable fact. -/
theorem inv_of {s : State} (hp : s.pr = ParseRecord.empty)
    (h : s.params.legal = true ∧ s.socks.length = s.params.nsock
      ∧ (s.txbuf.cells.Pairwise (fun x y => x.1 < y.1)
        ∧ ∀ c ∈ s.txbuf.cells, c.1 < s.params.bufBytes)
      ∧ (s.rxbuf.cells.Pairwise (fun x y => x.1 < y.1)
        ∧ ∀ c ∈ s.rxbuf.cells, c.1 < s.params.bufBytes)
      ∧ s.rxLen.toNat ≤ s.params.bufBytes
      ∧ ((s.verdict.cls = .udp ∨ s.verdict.cls = .tcp → s.verdict.slot.toNat < s.params.nsock)
        ∧ (s.verdict.cls ≠ .udp → s.verdict.cls ≠ .tcp → s.verdict.slot = 0xFF#8)
        ∧ (s.verdict.cls = .drop ↔ s.verdict.reason ≠ .none))) : Inv s :=
  ⟨h.1, h.2.1, bufSound_of h.2.2.1, bufSound_of h.2.2.2.1, h.2.2.2.2.1, h.2.2.2.2.2,
    hp ▸ recordSound_empty⟩

theorem inv_gotP2 : Inv gotP2 := inv_of rfl (by decide +kernel)

/-- Frame P2 received and `DISPATCH` about to be issued. -/
def aboutToDispatch : State := withEvent (regWrite s0 0 0x00000020#32) gotP2

theorem admitted_of {s : State}
    (h : 42 ≤ s.rxLen.toNat
      ∧ (be48 (bufByte .rx s) 0 = 0xFFFFFFFFFFFF#48 ∨ be48 (bufByte .rx s) 0 = s.macHi ++ s.macLo)
      ∧ be16 (bufByte .rx s) 12 = 0x0800#16
      ∧ (be32 (bufByte .rx s) 30 = 0xFFFFFFFF#32 ∨ be32 (bufByte .rx s) 30 = s.ipAddr
        ∨ s.ipAddr = 0#32)
      ∧ (be16 (bufByte .rx s) 16).toNat ≤ s.rxLen.toNat) : Admitted s :=
  ⟨h.1, h.2.1, h.2.2.1, h.2.2.2.1, h.2.2.2.2⟩

theorem reaches_of {s : State} (hc : s.rxChan = s.params.dataChan) (ha : Admitted s)
    (hi : s.ctrl.ipcsumEn = false) : ReachesDemux s :=
  ⟨hc, ha, fun h => by rw [hi] at h; cases h⟩

theorem reaches_gotP2 : ReachesDemux gotP2 :=
  reaches_of rfl (admitted_of (by decide +kernel)) rfl

theorem reaches_gotP3 : ReachesDemux gotP3 :=
  reaches_of rfl (admitted_of (by decide +kernel)) rfl

theorem l3_gotP2 : L3Valid gotP2 := by
  unfold L3Valid; decide +kernel

theorem l3_gotP3 : L3Valid gotP3 := by
  unfold L3Valid; decide +kernel

theorem udp_gotP2 : UdpStructure gotP2 := by
  constructor <;> decide +kernel

theorem tcp_gotP3 : TcpStructure gotP3 := by
  constructor <;> decide +kernel

/-! ### Encoding and the step -/

theorem witness_DecodeOfEncodedCommand :
    WellFormed (.csum 65535 .rx) = true ∧ WellFormed (.sockClear 7 .free) = true := by decide

theorem witness_EncodeOfDecodedWord : decode 0xFFFF0108#32 = .ok (.csum 65535 .rx) := by rfl

theorem witness_CommandRowsByMaskAndMatch_reserved :
    specRows.any (fun r => r.hits 0x00011C31#32) = false
      ∧ specRows.any (fun r => r.hasOpcode 0x00011C31#32) = true := by decide

theorem witness_CommandRowsByMaskAndMatch_illegal :
    specRows.any (fun r => r.hasOpcode 0x00000032#32) = false := by decide

theorem witness_StepRunsTheDecodedCommand :
    aboutToDispatch.pending = regWrite aboutToDispatch 0 0x00000020#32 :: []
      ∧ decode 0x00000020#32 = .ok .dispatch := ⟨rfl, rfl⟩

theorem witness_StepRunsTheDecodedCommand_illegal :
    (withEvent (regWrite s0 0 5#32) s0).pending = regWrite s0 0 5#32 :: []
      ∧ decode 5#32 = .error .illegal := ⟨rfl, rfl⟩

theorem witness_StepRunsTheDecodedCommand_reserved :
    (withEvent (regWrite s0 0 0x2000#32) s0).pending = regWrite s0 0 0x2000#32 :: []
      ∧ decode 0x2000#32 = .error .reserved := ⟨rfl, rfl⟩

theorem witness_IdleStepChangesNothing : gotP2.pending = [] := rfl

theorem witness_PlatformResetRestoresRegisters :
    (withEvent .reset gotP2).pending = .reset :: [] := rfl

theorem witness_StepKeepsInvariant :
    Inv aboutToDispatch ∧ ∃ t, step aboutToDispatch = .next t :=
  ⟨inv_of rfl (by decide +kernel), exists_of_isNext (by decide +kernel)⟩

theorem witness_SafeRunsNeverStop : Safe aboutToDispatch :=
  ⟨inv_of rfl (by decide +kernel), by decide +kernel⟩

/-- A host access of the large machine, of each width, at an address. -/
def reading (addr : Nat) (width : Width) : State :=
  withEvent (.access (.read addr width)) sLarge

theorem witness_AccessStopsExactlyWhenForbidden_outside :
    (reading 0x3FFFFFFF .byte).pending = .access (.read 0x3FFFFFFF .byte) :: []
      ∧ 0x3FFFFFFF < (reading 0x3FFFFFFF .byte).params.codecBase
      ∧ (reading 0x40030000 .byte).params.codecBase + 0x30000 ≤ 0x40030000 := by
  refine ⟨rfl, ?_, ?_⟩ <;> decide

theorem witness_AccessStopsExactlyWhenForbidden_register :
    (reading 0x40000002 .word).params.codecBase ≤ 0x40000002
      ∧ (0x40000002 - (reading 0x40000002 .word).params.codecBase) % 4 ≠ 0
      ∧ 0x4000FFFC < (reading 0x4000FFFC .half).params.codecBase + 0x10000
      ∧ Width.half ≠ Width.word := by decide

theorem witness_AccessStopsExactlyWhenForbidden_register_allowed :
    (reading 0x4000FFFC .word).params.codecBase ≤ 0x4000FFFC
      ∧ 0x4000FFFC < (reading 0x4000FFFC .word).params.codecBase + 0x10000
      ∧ (0x4000FFFC - (reading 0x4000FFFC .word).params.codecBase) % 4 = 0 := by decide

theorem witness_AccessStopsExactlyWhenForbidden_window :
    (reading 0x40010001 .half).params.codecBase + 0x10000 ≤ 0x40010001
      ∧ (0x40010001 - (reading 0x40010001 .half).params.codecBase) % 2 ≠ 0
      ∧ 0x4002FFFE < (reading 0x4002FFFE .word).params.codecBase + 0x30000
      ∧ (0x4002FFFE - (reading 0x4002FFFE .word).params.codecBase) % 4 ≠ 0 := by decide

theorem witness_AccessStopsExactlyWhenForbidden_window_allowed :
    (reading 0x40010000 .word).params.codecBase + 0x10000 ≤ 0x40010000
      ∧ (0x40010000 - (reading 0x40010000 .word).params.codecBase) % 4 = 0
      ∧ 0x4002FFFF < (reading 0x4002FFFF .byte).params.codecBase + 0x30000 := by decide

theorem witness_SecondHostIsRefused :
    (withEvent (.otherHost (.read 0 .word)) s0).pending = .otherHost (.read 0 .word) :: [] := rfl

theorem witness_ParametersNeverChange : ∃ t, step aboutToDispatch = .next t :=
  exists_of_isNext (by decide +kernel)

/-! ### The host bus -/

/-- A state with two events pending. -/
def twoEvents (e f : Event) (s : State) : State := { s with pending := [e, f] }

theorem witness_ReadsHaveNoSideEffects :
    accessOk s0.params.codecBase 0x2FFFE .half = true
      ∧ (twoEvents (.access (.read 0x2FFFE .half)) (.access (.read 0x2FFFE .half)) s0).pending
        = .access (.read 0x2FFFE .half) :: .access (.read 0x2FFFE .half) :: [] := ⟨by decide, rfl⟩

theorem witness_WritableRegistersReadBack :
    (0x05C, 0x000000FF#32, Reg.rxChan) ∈ [(0x010, 0x00000003#32, Reg.ctrl),
      (0x020, 0xFFFFFFFF#32, .a0), (0x024, 0xFFFFFFFF#32, .a1), (0x028, 0xFFFFFFFF#32, .a2),
      (0x02C, 0xFFFFFFFF#32, .a3), (0x030, 0xFFFFFFFF#32, .a4), (0x034, 0xFFFFFFFF#32, .a5),
      (0x040, 0xFFFFFFFF#32, .macHi), (0x044, 0x0000FFFF#32, .macLo),
      (0x048, 0xFFFFFFFF#32, .ipAddr), (0x04C, 0x0000FFFF#32, .ipIdent),
      (0x050, 0x000000FF#32, .ipTtl), (0x054, 0x0000FFFF#32, .tcpMss),
      (0x05C, 0x000000FF#32, .rxChan)]
      ∧ (twoEvents (regWrite s0 0x05C 0x1FF#32) (regRead s0 0x05C) s0).pending
        = regWrite s0 0x05C 0x1FF#32 :: regRead s0 0x05C :: [] := ⟨by decide, rfl⟩

theorem witness_CmdReadsBackTheLastWord :
    (twoEvents (regWrite s0 0 5#32) (regRead s0 0) s0).pending
      = regWrite s0 0 5#32 :: regRead s0 0 :: [] := rfl

/-- The reserved word of the last entry and the first word past the table. -/
theorem witness_UnassignedOffsetsAreInert :
    ¬ AssignedOffset s0.params.nsock 0x19C ∧ ¬ AssignedOffset s0.params.nsock 0x1A0
      ∧ (withEvent (regRead s0 0x1A0) s0).pending = regRead s0 0x1A0 :: []
      ∧ (withEvent (regWrite s0 0x19C 5#32) s0).pending = regWrite s0 0x19C 5#32 :: [] := by
  have key : ∀ off, 0x19C ≤ off → off % 0x20 = 0x1C ∨ 0x1A0 ≤ off → ¬ AssignedOffset 5 off := by
    rintro off h0 h1 (h | ⟨j, hj, h⟩ | ⟨k, j, hk, hj, h⟩)
    · simp only [List.mem_cons, List.not_mem_nil, or_false] at h
      omega
    · omega
    · omega
  exact ⟨key _ (by omega) (by omega), key _ (by omega) (by omega), rfl, rfl⟩

theorem witness_ReadOnlyRegistersIgnoreWrites :
    (∃ j, j < 18 ∧ 0x0C4 = 0x080 + 4 * j)
      ∧ (withEvent (regWrite s0 0x0C4 5#32) s0).pending = regWrite s0 0x0C4 5#32 :: [] :=
  ⟨⟨17, by decide, rfl⟩, rfl⟩

theorem witness_StatusWriteClearsSticky :
    0xFFFFFFFF#32 &&& 0x100#32 = 0x100#32 ∧ 0xFFFFFEFF#32 &&& 0x100#32 = 0#32
      ∧ (withEvent (regWrite s0 4 0xFFFFFFFF#32) s0).pending
        = regWrite s0 4 0xFFFFFFFF#32 :: [] := ⟨by decide, by decide, rfl⟩

theorem witness_RxLenWriteClampsAndClearsRxpend :
    (withEvent (regWrite s0 0x058 0x00010800#32) gotP2).pending
      = regWrite gotP2 0x058 0x00010800#32 :: [] := rfl

/-- The reserved word of the last entry of a table of eight. -/
theorem witness_PortTableWordsReadBack :
    sLarge.params.nsock ≤ 8 ∧ sLarge.socks.length = sLarge.params.nsock ∧ 7 < sLarge.params.nsock
      ∧ (twoEvents (regWrite sLarge 0x1FC 5#32) (regRead sLarge 0x1FC) sLarge).pending
        = regWrite sLarge (0x100 + 0x20 * 7 + 0x1C) 5#32
          :: regRead sLarge (0x100 + 0x20 * 7 + 0x1C) :: [] := by
  refine ⟨?_, ?_, ?_, rfl⟩ <;> decide

/-- The last byte of the smallest buffer and the first byte past it. -/
theorem witness_WindowBytesReachTheBuffer :
    63 < sSmall.params.bufBytes ∧ sSmall.params.bufBytes ≤ 64
      ∧ (withEvent (winRead sSmall .tx .byte 63) sSmall).pending
        = winRead sSmall .tx .byte 63 :: []
      ∧ (withEvent (winWrite sSmall .rx .byte 64 5#32) sSmall).pending
        = winWrite sSmall .rx .byte 64 5#32 :: [] := by
  refine ⟨?_, ?_, rfl, rfl⟩ <;> decide

/-- A state whose `BUF_BYTES` of 66 is no multiple of 4, so that an aligned word access straddles it. -/
def sOdd : State := State.resetWith { Config.defaultParams with bufBytes := 66 } 0

/-- The last half-word inside, a word across the end, and the last word of the window, past the end. -/
theorem witness_WindowLanesAreLittleEndian :
    (Width.half, 2) ∈ [(Width.half, 2), (Width.word, 4)]
      ∧ (Width.word, 4) ∈ [(Width.half, 2), (Width.word, 4)]
      ∧ 64 < 0x10000 ∧ 64 % 2 = 0 ∧ 64 % 4 = 0 ∧ 64 + 1 < sOdd.params.bufBytes
      ∧ sOdd.params.bufBytes ≤ 64 + 2 ∧ 65532 < 0x10000 ∧ 65532 % 4 = 0
      ∧ sOdd.params.bufBytes ≤ 65532
      ∧ (withEvent (winRead sOdd .rx .half 64) sOdd).pending = winRead sOdd .rx .half 64 :: []
      ∧ (withEvent (winRead sOdd .rx .word 64) sOdd).pending = winRead sOdd .rx .word 64 :: []
      ∧ (withEvent (winWrite sOdd .tx .word 64 5#32) sOdd).pending
        = winWrite sOdd .tx .word 64 5#32 :: []
      ∧ (withEvent (winWrite sOdd .rx .word 65532 5#32) sOdd).pending
        = winWrite sOdd .rx .word 65532 5#32 :: [] := by
  refine ⟨?_, ?_, ?_, ?_, ?_, ?_, ?_, ?_, ?_, ?_, rfl, rfl, rfl, rfl⟩ <;> decide

/-- V7 of 95_test_vectors.md: a 32-bit read at `w = BUF_BYTES` is 0. -/
theorem test_word_read_past_buffer :
    part (step (withEvent (winRead s0 .tx .word 0x800) s0)) (fun t => t.readData) = some 0#32 := by
  decide

/-! ### Checksums and headers -/

theorem witness_EvenPiecesChain : [0x12#8, 0x34#8].length % 2 = 0 := by decide

theorem witness_WordOrderDoesNotMatter : [0x1234#16, 0x5678#16].Perm [0x5678#16, 0x1234#16] :=
  List.Perm.swap _ _ _

theorem witness_EmbeddedFieldVerifies : (List.replicate 10 0x00#8).length % 2 = 0 := by decide

/-- The largest fitting range and one byte more. -/
theorem witness_CsumSumsTheRange :
    2048 + (lowHalf s0.a1).toNat ≤ s0.params.bufBytes
      ∧ s0.params.bufBytes < 2047 + (lowHalf { s0 with a1 := 2#32 }.a1).toNat := by decide

theorem witness_EthAddWritesTheHeader :
    2034 + 14 ≤ s0.params.bufBytes ∧ s0.params.bufBytes < 2035 + 14 := by decide

/-- The largest `DLEN`, the last legal offset, one more of each. -/
theorem witness_IpAddWritesTheHeader :
    20 + (highHalf { s0 with a1 := 0xFFEB0000#32 }.a1).toNat ≤ 65535
      ∧ 2028 + 20 ≤ s0.params.bufBytes
      ∧ 65535 < 20 + (highHalf { s0 with a1 := 0xFFEC0000#32 }.a1).toNat
      ∧ s0.params.bufBytes < 2029 + 20 := by decide

theorem witness_UdpAddWritesTheHeader :
    8 + (lowHalf { sLarge with a2 := 0xFFF7#32 }.a2).toNat ≤ 65535
      ∧ 0 + 8 + (lowHalf { sLarge with a2 := 0xFFF7#32 }.a2).toNat ≤ sLarge.params.bufBytes
      ∧ 65535 < 8 + (lowHalf { sLarge with a2 := 0xFFF8#32 }.a2).toNat
      ∧ s0.params.bufBytes < 2040 + 8 + (lowHalf { s0 with a2 := 1#32 }.a2).toNat := by decide

/-- With the option (`FLAGS` 0x02) and without it. -/
theorem witness_TcpAddWritesTheHeader :
    24 = (if { sLarge with a4 := 2#32 }.a4 &&& 2#32 = 2#32 then 24 else 20)
      ∧ 24 + (lowHalf { sLarge with a5 := 0xFFE7#32 }.a5).toNat ≤ 65535
      ∧ 0 + 24 + (lowHalf { sLarge with a5 := 0xFFE7#32 }.a5).toNat ≤ sLarge.params.bufBytes
      ∧ 65535 < 24 + (lowHalf { sLarge with a5 := 0xFFE8#32 }.a5).toNat
      ∧ 20 = (if { s0 with a4 := 0x10#32 }.a4 &&& 2#32 = 2#32 then 24 else 20)
      ∧ 20 + (lowHalf { s0 with a5 := 1#32 }.a5).toNat ≤ 65535
      ∧ s0.params.bufBytes < 2028 + 20 + (lowHalf { s0 with a5 := 1#32 }.a5).toNat := by decide

theorem witness_BuiltChecksumsVerify :
    20 + ipDlen { s0 with a1 := 0xFFEB0000#32 } ≤ 65535 ∧ 2028 + 20 ≤ s0.params.bufBytes
      ∧ 8 + udpDlen { sLarge with a2 := 0xFFF7#32 } ≤ 65535
      ∧ 0 + 8 + udpDlen { sLarge with a2 := 0xFFF7#32 } ≤ sLarge.params.bufBytes
      ∧ tcpHeaderLen { sLarge with a4 := 2#32, a5 := 0xFFE7#32 }
        + tcpDlen { sLarge with a4 := 2#32, a5 := 0xFFE7#32 } ≤ 65535 := by decide

/-! ### Parsing and admission -/

/-- Frame P2 is L3 and UDP, frame P3 is L3 and TCP. -/
theorem witness_ParseFillsTheRegisters :
    part (exec .parse gotP2) (fun t => (t.pr.l2, t.pr.l3, t.pr.udp)) = some (true, true, true)
      ∧ part (exec .parse gotP3) (fun t => t.pr.tcp) = some true := by decide +kernel

theorem witness_IpCheckReportsTheFirstFailure :
    Admitted gotP2 ∧ (received frameP2 41).rxLen.toNat < 42 :=
  ⟨admitted_of (by decide +kernel), by decide⟩

theorem witness_IpCheckReportsTheFirstFailure_mac :
    42 ≤ (received (patched frameP2 5 3#8) 42).rxLen.toNat
      ∧ ¬ MacAccepted (received (patched frameP2 5 3#8) 42) := by
  unfold MacAccepted; decide +kernel

theorem witness_IpCheckReportsTheFirstFailure_etype :
    42 ≤ (received (patched frameP2 13 6#8) 47).rxLen.toNat
      ∧ MacAccepted (received (patched frameP2 13 6#8) 47)
      ∧ be16 (bufByte .rx (received (patched frameP2 13 6#8) 47)) 12 ≠ 0x0800#16 := by
  unfold MacAccepted; decide +kernel

theorem witness_IpCheckReportsTheFirstFailure_ipdst :
    42 ≤ (received (patched frameP2 33 11#8) 47).rxLen.toNat
      ∧ MacAccepted (received (patched frameP2 33 11#8) 47)
      ∧ be16 (bufByte .rx (received (patched frameP2 33 11#8) 47)) 12 = 0x0800#16
      ∧ ¬ IpAccepted (received (patched frameP2 33 11#8) 47) := by
  unfold MacAccepted IpAccepted; decide +kernel

theorem witness_IpCheckReportsTheFirstFailure_tlen :
    42 ≤ (received (patched frameP2 17 48#8) 47).rxLen.toNat
      ∧ MacAccepted (received (patched frameP2 17 48#8) 47)
      ∧ be16 (bufByte .rx (received (patched frameP2 17 48#8) 47)) 12 = 0x0800#16
      ∧ IpAccepted (received (patched frameP2 17 48#8) 47)
      ∧ (received (patched frameP2 17 48#8) 47).rxLen.toNat
        < (be16 (bufByte .rx (received (patched frameP2 17 48#8) 47)) 16).toNat := by
  unfold MacAccepted IpAccepted; decide +kernel

theorem witness_UdpVerifyReportsTheResidual :
    L3Valid gotP2 ∧ bufByte .rx gotP2 23 = 17#8 ∧ UdpStructure gotP2
      ∧ ValidResidual (segmentSum 17#8 (be16 (bufByte .rx gotP2) 38).toNat gotP2) :=
  ⟨l3_gotP2, by decide +kernel, udp_gotP2, .inl (by decide +kernel)⟩

/-- Frame P2 with its checksum field zeroed (95_test_vectors.md V3). -/
def badP2 : State :=
  { received (patched (patched frameP2 40 0#8) 41 0#8) 47 with
    socks := tableWith udpEntry, ctrl := { l4csumEn := true, ipcsumEn := false } }

theorem udp_badP2 : UdpStructure badP2 := by
  constructor <;> decide +kernel

theorem witness_UdpVerifyReportsTheResidual_invalid :
    bufByte .rx badP2 23 = 17#8 ∧ UdpStructure badP2
      ∧ ¬ ValidResidual (segmentSum 17#8 (be16 (bufByte .rx badP2) 38).toNat badP2) :=
  ⟨by decide +kernel, udp_badP2, by unfold ValidResidual; decide +kernel⟩

theorem witness_UdpVerifyReportsTheResidual_not_udp :
    ¬ (L3Valid gotP3 ∧ bufByte .rx gotP3 23 = 17#8 ∧ UdpStructure gotP3) :=
  fun h => absurd h.2.1 (by decide +kernel)

theorem witness_TcpVerifyReportsTheResidual :
    L3Valid gotP3 ∧ bufByte .rx gotP3 23 = 6#8 ∧ TcpStructure gotP3
      ∧ ValidResidual (segmentSum 6#8 ((be16 (bufByte .rx gotP3) 16).toNat - 20) gotP3) :=
  ⟨l3_gotP3, by decide +kernel, tcp_gotP3, .inl (by decide +kernel)⟩

/-- Frame P3 with another source port, so that its checksum fails. -/
def badP3 : State :=
  { received (patched frameP3 35 0x51#8) 58 with
    socks := tableWith tcpListener, ctrl := { l4csumEn := true, ipcsumEn := false } }

theorem tcp_badP3 : TcpStructure badP3 := by
  constructor <;> decide +kernel

theorem witness_TcpVerifyReportsTheResidual_invalid :
    bufByte .rx badP3 23 = 6#8 ∧ TcpStructure badP3
      ∧ ¬ ValidResidual (segmentSum 6#8 ((be16 (bufByte .rx badP3) 16).toNat - 20) badP3) :=
  ⟨by decide +kernel, tcp_badP3, by unfold ValidResidual; decide +kernel⟩

theorem witness_TcpVerifyReportsTheResidual_not_tcp :
    ¬ (L3Valid gotP2 ∧ bufByte .rx gotP2 23 = 6#8 ∧ TcpStructure gotP2) :=
  fun h => absurd h.2.1 (by decide +kernel)

/-- Another byte at 47, the first one past `RX_LEN`. -/
theorem witness_ReceiveSideIgnoresStaleBytes :
    gotP2.rxbuf ≠ memAt 0 (frameP2 ++ [0xAA#8])
      ∧ ∀ a, a < gotP2.rxLen.toNat →
        bufByte .rx { gotP2 with rxbuf := memAt 0 (frameP2 ++ [0xAA#8]) } a
          = bufByte .rx gotP2 a := by decide +kernel

/-! ### Dispatch and the port table -/

theorem witness_DispatchWritesParseVerdictAndOneEntry :
    (received frameP2 41).socks.length ≤ 256 ∧ part (exec .dispatch (received frameP2 41)) (fun t => t.verdict.cls) = some .drop := by
  decide +kernel

/-- A delivery, where only the entry of `VERDICT.SLOT` may change. -/
theorem witness_DispatchWritesParseVerdictAndOneEntry_delivery :
    gotP2.socks.length ≤ 256 ∧ part (exec .dispatch gotP2) (fun t => t.verdict.cls) = some .udp := by
  decide +kernel

theorem witness_DispatchClassifiesBeforeTransport_chan :
    { gotP2 with rxChan := 0#8 }.rxChan ≠ { gotP2 with rxChan := 0#8 }.params.dataChan := by
  decide

/-- On the data channel, with the frames of `witness_IpCheckReportsTheFirstFailure` and its clauses. -/
theorem witness_DispatchClassifiesBeforeTransport_admission :
    (∀ f n, (received f n).rxChan = (received f n).params.dataChan)
      ∧ (received frameP2 41).rxLen.toNat < 42
      ∧ ¬ MacAccepted (received (patched frameP2 5 3#8) 42)
      ∧ be16 (bufByte .rx (received (patched frameP2 13 6#8) 47)) 12 ≠ 0x0800#16
      ∧ ¬ IpAccepted (received (patched frameP2 33 11#8) 47)
      ∧ (received (patched frameP2 17 48#8) 47).rxLen.toNat
        < (be16 (bufByte .rx (received (patched frameP2 17 48#8) 47)) 16).toNat :=
  ⟨fun _ _ => rfl, by decide, by unfold MacAccepted; decide +kernel, by decide +kernel,
    by unfold IpAccepted; decide +kernel, by decide +kernel⟩

/-- Frame P2 with a corrupted IP checksum and `IPCSUM_EN` set (95_test_vectors.md V4). -/
def badIp : State :=
  { received (patched frameP2 24 0#8) 47 with ctrl := { l4csumEn := false, ipcsumEn := true } }

theorem witness_DispatchClassifiesBeforeTransport_ipcsum :
    badIp.rxChan = badIp.params.dataChan ∧ Admitted badIp ∧ badIp.ctrl.ipcsumEn = true
      ∧ ¬ ValidResidual (csumAdd 0#16 (readRange (bufByte .rx badIp) 14 20)) :=
  ⟨rfl, admitted_of (by decide +kernel), rfl, by unfold ValidResidual; decide +kernel⟩

theorem witness_DispatchClassifiesBeforeTransport_icmp :
    ReachesDemux (received (patched frameP2 23 1#8) 47)
      ∧ bufByte .rx (received (patched frameP2 23 1#8) 47) 23 = 1#8 :=
  ⟨reaches_of rfl (admitted_of (by decide +kernel)) rfl, by decide +kernel⟩

theorem witness_DispatchClassifiesBeforeTransport_proto :
    ReachesDemux (received (patched frameP2 23 2#8) 47)
      ∧ bufByte .rx (received (patched frameP2 23 2#8) 47) 23 = 2#8 :=
  ⟨reaches_of rfl (admitted_of (by decide +kernel)) rfl, by decide +kernel⟩

theorem witness_DispatchDeliversUdpToFirstMatch :
    ReachesDemux gotP2 ∧ bufByte .rx gotP2 23 = 17#8 ∧ UdpStructure gotP2
      ∧ (gotP2.ctrl.l4csumEn = true →
        ValidResidual (segmentSum 17#8 (be16 (bufByte .rx gotP2) 38).toNat gotP2))
      ∧ FirstAt gotP2 (UdpEntry (be16 (bufByte .rx gotP2) 36)) 0 :=
  ⟨reaches_gotP2, by decide +kernel, udp_gotP2, fun h => (by cases h),
    by decide, by unfold UdpEntry; decide +kernel, fun j hj => by omega⟩

theorem witness_DispatchDeliversUdpToFirstMatch_none :
    ReachesDemux (received frameP2 47) ∧ UdpStructure (received frameP2 47)
      ∧ NoEntry (received frameP2 47) (UdpEntry (be16 (bufByte .rx (received frameP2 47)) 36)) :=
  ⟨reaches_of rfl (admitted_of (by decide +kernel)) rfl, by constructor <;> decide +kernel,
    by unfold NoEntry UdpEntry; decide +kernel⟩

theorem witness_DispatchDeliversUdpToFirstMatch_l4hdr :
    ReachesDemux (received (patched frameP2 39 7#8) 47)
      ∧ ¬ UdpStructure (received (patched frameP2 39 7#8) 47) :=
  ⟨reaches_of rfl (admitted_of (by decide +kernel)) rfl,
    fun h => absurd h.ulen_min (by decide +kernel)⟩

theorem witness_DispatchDeliversUdpToFirstMatch_l4csum :
    ReachesDemux badP2 ∧ UdpStructure badP2 ∧ badP2.ctrl.l4csumEn = true
      ∧ ¬ ValidResidual (segmentSum 17#8 (be16 (bufByte .rx badP2) 38).toNat badP2) :=
  ⟨reaches_of rfl (admitted_of (by decide +kernel)) rfl, udp_badP2, rfl,
    by unfold ValidResidual; decide +kernel⟩

/-- Frame P3 with a listener before the entry bound to its sender. -/
def boundP3 : State :=
  { gotP3 with
    socks := tcpListener
      :: { tcpListener with rbound := true, rip := 0xC6336407#32, rport := 50000#16 }
      :: [Sock.empty, Sock.empty, Sock.empty] }

theorem witness_DispatchDeliversTcpBoundFirst :
    ReachesDemux boundP3 ∧ bufByte .rx boundP3 23 = 6#8 ∧ TcpStructure boundP3
      ∧ FirstAt boundP3 (TcpBound (be16 (bufByte .rx boundP3) 36) (be32 (bufByte .rx boundP3) 26)
          (be16 (bufByte .rx boundP3) 34)) 1 :=
  ⟨reaches_of rfl (admitted_of (by decide +kernel)) rfl, by decide +kernel,
    by constructor <;> decide +kernel,
    by decide, by unfold TcpBound; decide +kernel, by unfold TcpBound; decide +kernel⟩

theorem witness_DispatchDeliversTcpBoundFirst_listener :
    ReachesDemux gotP3 ∧ TcpStructure gotP3
      ∧ NoEntry gotP3 (TcpBound (be16 (bufByte .rx gotP3) 36) (be32 (bufByte .rx gotP3) 26)
          (be16 (bufByte .rx gotP3) 34))
      ∧ FirstAt gotP3 (TcpListener (be16 (bufByte .rx gotP3) 36)) 0 :=
  ⟨reaches_gotP3, tcp_gotP3, by unfold NoEntry TcpBound; decide +kernel,
    by decide, by unfold TcpListener; decide +kernel, fun j hj => by omega⟩

theorem witness_DispatchDeliversTcpBoundFirst_none :
    ReachesDemux (received frameP3 58) ∧ TcpStructure (received frameP3 58)
      ∧ NoEntry (received frameP3 58)
        (TcpBound (be16 (bufByte .rx (received frameP3 58)) 36)
          (be32 (bufByte .rx (received frameP3 58)) 26)
          (be16 (bufByte .rx (received frameP3 58)) 34))
      ∧ NoEntry (received frameP3 58)
        (TcpListener (be16 (bufByte .rx (received frameP3 58)) 36)) :=
  ⟨reaches_of rfl (admitted_of (by decide +kernel)) rfl, by constructor <;> decide +kernel,
    by unfold NoEntry TcpBound; decide +kernel, by unfold NoEntry TcpListener; decide +kernel⟩

theorem witness_DispatchDeliversTcpBoundFirst_l4hdr :
    ReachesDemux (received (patched frameP3 46 0x40#8) 58)
      ∧ ¬ TcpStructure (received (patched frameP3 46 0x40#8) 58) :=
  ⟨reaches_of rfl (admitted_of (by decide +kernel)) rfl,
    fun h => absurd h.doff_min (by decide +kernel)⟩

theorem witness_DispatchDeliversTcpBoundFirst_l4csum :
    ReachesDemux badP3 ∧ TcpStructure badP3 ∧ badP3.ctrl.l4csumEn = true
      ∧ ¬ ValidResidual (segmentSum 6#8 ((be16 (bufByte .rx badP3) 16).toNat - 20) badP3) :=
  ⟨reaches_of rfl (admitted_of (by decide +kernel)) rfl, tcp_badP3, rfl,
    by unfold ValidResidual; decide +kernel⟩

theorem witness_DeliveredPayloadInsideFrame :
    Inv gotP2 ∧ part (exec .dispatch gotP2) (fun t => t.verdict.cls) = some .udp :=
  ⟨inv_gotP2, by decide +kernel⟩

theorem witness_SockAllocTakesTheFirstUnused :
    lowHalf { s0 with a0 := 0x00010000#32 }.a0 = 0#16
      ∧ lowHalf { gotP2 with a0 := 80#32 }.a0 ≠ 0#16
      ∧ FirstAt { gotP2 with a0 := 80#32 } (fun e => e.lport = 0#16) 1 :=
  ⟨by decide, by decide, by decide, by decide, by decide⟩

/-- A full table. -/
def fullTable : State :=
  { s0 with a0 := 80#32, socks := [udpEntry, tcpListener, udpEntry, tcpListener, udpEntry] }

theorem witness_SockAllocTakesTheFirstUnused_full :
    lowHalf fullTable.a0 ≠ 0#16 ∧ NoEntry fullTable (fun e => e.lport = 0#16) :=
  ⟨by decide, by unfold NoEntry; decide⟩

theorem witness_SockClearKeepsOnlyTheTemplate :
    4 < s0.params.nsock ∧ s0.params.nsock ≤ 5 := by decide

/-! ### The whole command set -/

/-- A word with two causes: `E_LENGTH` is reported, `E_RANGE` holds too (95_test_vectors.md V6). -/
theorem witness_ReportedErrorIsTheFirstCause :
    errorApplies { s0 with a1 := 0xFFFF0011#32 } 0xFFFF0002#32 .length = true
      ∧ errorApplies { s0 with a1 := 0xFFFF0011#32 } 0xFFFF0002#32 .range = true := by decide

theorem witness_ErrorsArePrecise :
    part (issueCommand 0x07F30001#32 s0) (fun t => t.status.errcode) = some .range
      ∧ part (issueCommand 0x00000010#32 s0) (fun t => t.status.errcode) = some .ok := by
  decide +kernel

theorem witness_CommandsWriteOnlyTheirOwn :
    opcodeOfInstr .udpVerify ≠ .ipAdd
      ∧ opcodeOfInstr .udpVerify ∉ [Opcode.dispatch, .sockAlloc, .sockClear] := by decide

theorem witness_ProtocolOutcomesAreNotErrors :
    Instr.dispatch ∈ [Instr.parse, .ipCheck, .udpVerify, .tcpVerify, .dispatch]
      ∧ lowHalf fullTable.a0 ≠ 0#16 ∧ NoEntry fullTable (fun e => e.lport = 0#16) :=
  ⟨by decide, by decide, by unfold NoEntry; decide⟩

end Sys2Proof.Tests
end

section
/-! SUPPORT. What a step keeps, said once: a property that every elementary update of the state keeps
is kept by every command, every host access and every step. -/

namespace Sys2Proof.Machine

open Sys2Proof

/-! ## Properties kept by every update -/

/-- `P` is kept by every elementary update that a command makes (10_state.md R42). A write to `TXBUF`
is in range, since each command tests its range before it writes (60_exceptions.md R242). -/
structure KeptByCommands (P : State → Prop) : Prop where
  completed : ∀ v s, P s → P (completed v s)
  failed : ∀ c s, P s → P (failed c s)
  txbuf : ∀ off bs s, off + bs.length ≤ s.params.bufBytes → P s → P (writeBuf .tx off bs s)
  ident : ∀ s, P s → P (advanceIdent s)
  parse : ∀ s, P s → P { s with pr := parseRx s }
  check : ∀ s, P s → P { s with verdict := checkVerdict (admission s) }
  dispatch : ∀ s, P s → P { s with
    pr := parseRx s
    verdict := (classify (parseRx s) s).1
    socks := (classify (parseRx s) s).2 }
  sock : ∀ k e s, P s → P (setSock k e s)

/-- `P` is kept by every elementary update of the machine: those of the commands, those of the host's
accesses (20_memory.md R66 to R69), the taking of an event, and the platform reset. -/
structure KeptByUpdates (P : State → Prop) : Prop extends KeptByCommands P where
  cmd : ∀ w s, P s → P { s with cmd := w }
  reg : ∀ r v s, P s → P (writeReg r v s)
  rxbuf : ∀ off bs s, off + bs.length ≤ s.params.bufBytes → P s → P (writeBuf .rx off bs s)
  readData : ∀ v s, P s → P { s with readData := v }
  pending : ∀ es s, P s → P { s with pending := es }
  reset : ∀ s, P s → P (platformReset s)

/-- Every command is made of the elementary updates. -/
theorem exec_keeps {P : State → Prop} (hP : KeptByCommands P) {i : Instr} {s t : State}
    (h : exec i s = .next t) (hs : P s) : P t := by
  cases i with
  | nop => exact execNop_cases h ▸ hP.completed _ _ hs
  | ethAdd off =>
    rcases execEthAdd_cases h with ⟨hr, rfl⟩ | ⟨_, rfl⟩
    · exact hP.completed _ _ (hP.txbuf _ _ _ (by simpa using hr) hs)
    · exact hP.failed _ _ hs
  | ipAdd off =>
    rcases execIpAdd_cases h with ⟨_, hr, rfl⟩ | ⟨_, rfl⟩ | ⟨_, _, rfl⟩
    · exact hP.completed _ _ (hP.ident _ (hP.txbuf _ _ _ (by simpa using hr) hs))
    · exact hP.failed _ _ hs
    · exact hP.failed _ _ hs
  | udpAdd off =>
    rcases execUdpAdd_cases h with ⟨_, hr, rfl⟩ | ⟨_, rfl⟩ | ⟨_, _, rfl⟩
    · exact hP.completed _ _ (hP.txbuf _ _ _ (by rw [udpHeader_length]; omega) hs)
    · exact hP.failed _ _ hs
    · exact hP.failed _ _ hs
  | tcpAdd off =>
    rcases execTcpAdd_cases h with ⟨_, hr, rfl⟩ | ⟨_, rfl⟩ | ⟨_, _, rfl⟩
    · exact hP.completed _ _ (hP.txbuf _ _ _ (by rw [tcpHeader_length]; omega) hs)
    · exact hP.failed _ _ hs
    · exact hP.failed _ _ hs
  | csum off buf =>
    rcases execCsum_cases h with ⟨_, rfl⟩ | ⟨_, rfl⟩
    · exact hP.completed _ _ hs
    · exact hP.failed _ _ hs
  | parse => exact execParse_cases h ▸ hP.completed _ _ (hP.parse s hs)
  | ipCheck => exact execIpCheck_cases h ▸ hP.completed _ _ (hP.check s hs)
  | udpVerify => exact execUdpVerify_cases h ▸ hP.completed _ _ hs
  | tcpVerify => exact execTcpVerify_cases h ▸ hP.completed _ _ hs
  | dispatch => exact execDispatch_cases h ▸ hP.completed _ _ (hP.dispatch s hs)
  | sockAlloc =>
    rcases execSockAlloc_cases h with ⟨_, rfl⟩ | ⟨k, _, _, rfl⟩ | ⟨_, _, rfl⟩
    · exact hP.failed _ _ hs
    · exact hP.completed _ _ (hP.sock _ _ _ hs)
    · exact hP.completed _ _ hs
  | sockClear slot mode =>
    rcases execSockClear_cases h with ⟨_, rfl⟩ | ⟨_, rfl⟩
    · exact hP.completed _ _ (hP.sock _ _ _ hs)
    · exact hP.failed _ _ hs

/-- A write of `CMD` stores the word and then runs a command or raises an error
(10_state.md R23, 30_encoding.md R90). -/
theorem issueCommand_keeps {P : State → Prop} (hP : KeptByUpdates P) {w : Word} {s t : State}
    (h : issueCommand w s = .next t) (hs : P s) : P t := by
  have hcmd := hP.cmd w s hs
  rcases issueCommand_cases w s with ⟨i, _, he⟩ | ⟨_, he⟩ | ⟨_, he⟩
  · exact exec_keeps hP.toKeptByCommands (he ▸ h) hcmd
  · cases he ▸ h; exact hP.failed _ _ hcmd
  · cases he ▸ h; exact hP.failed _ _ hcmd

/-- A window byte is written below `BUF_BYTES` or not at all (20_memory.md R61). -/
theorem setWindowByte_keeps {P : State → Prop} (hP : KeptByUpdates P) (b : Buf) (w : Nat) (v : Byte)
    (s : State) (hs : P s) : P (setWindowByte b w v s) := by
  unfold setWindowByte
  split
  · rename_i hw
    cases b with
    | tx => exact hP.txbuf w [v] s hw hs
    | rx => exact hP.rxbuf w [v] s hw hs
  · exact hs

/-- A host access is a read, a command, a register write or a window write (20_memory.md R66 to R69). -/
theorem performAccess_keeps {P : State → Prop} (hP : KeptByUpdates P) {a : Access} {s t : State}
    (h : performAccess a s = .next t) (hs : P s) : P t := by
  rcases performAccess_cases h with ⟨v, rfl⟩ | ⟨v, hc⟩ | ⟨r, v, rfl⟩ | rfl | ⟨b, width, w, v, rfl⟩
  · exact hP.readData v s hs
  · exact issueCommand_keeps hP hc hs
  · exact hP.reg r v s hs
  · exact hs
  · exact writeWindow_keeps P (setWindowByte_keeps hP b) width w v s hs

/-- What every elementary update keeps, every step keeps. -/
theorem step_keeps {P : State → Prop} (hP : KeptByUpdates P) {s t : State}
    (h : step s = .next t) (hs : P s) : P t := by
  rcases step_cases h with ⟨_, rfl⟩ | ⟨a, rest, _, ha⟩ | ⟨rest, _, rfl⟩
  · exact hs
  · exact performAccess_keeps hP ha (hP.pending rest s hs)
  · exact hP.reset _ (hP.pending rest s hs)

/-! ## The parameters -/

/-- No register write changes the parameters. -/
@[simp] theorem writeReg_params (r : Reg) (v : Word) (s : State) :
    (writeReg r v s).params = s.params := by
  cases r with
  | status => simp only [writeReg]; split <;> rfl
  | _ => rfl

/-- Every elementary update keeps the parameters (00_scope.md R8). -/
theorem params_kept (p : Params) : KeptByUpdates (fun s => s.params = p) where
  completed _ _ h := h
  failed _ _ h := h
  txbuf _ _ _ _ h := h
  ident _ h := h
  parse _ h := h
  check _ h := h
  dispatch _ h := h
  sock _ _ _ h := h
  cmd _ _ h := h
  reg r v s h := (writeReg_params r v s).trans h
  rxbuf _ _ _ _ h := h
  readData _ _ h := h
  pending _ _ h := h
  reset _ h := h

/-- Settles O13: the parameters are a property that every elementary update keeps. -/
theorem parametersNeverChange : Obligations.ParametersNeverChange :=
  fun s _ h => step_keeps (params_kept s.params) h rfl

end Sys2Proof.Machine
end

section
/-! SUPPORT. What `DISPATCH` and parsing answer meets the invariant, and the invariant itself: it holds
after a reset and every elementary update keeps it. -/

namespace Sys2Proof.Machine

open Sys2Proof

/-! ## Classification -/

/-- The two answers of classification (43_dispatch.md R210): no slot and the table as it was, or a
delivery that replaces the one entry the slot numbers. -/
theorem classify_noSlot_or_delivers (p : ParseRecord) (s : State) :
    (∃ c r, classify p s = (noSlot c r, s.socks) ∧ c ≠ .udp ∧ c ≠ .tcp ∧ (c = .drop ↔ r ≠ .none))
      ∨ ∃ c k e, classify p s = (toSlot c k, s.socks.set k e) ∧ (c = .udp ∨ c = .tcp)
        ∧ k < s.socks.length := by
  rcases classify_cases p s with h | ⟨k, _, hk, h⟩ | ⟨k, _, hk, h⟩
  · exact .inl h
  · exact .inr ⟨_, k, _, h, .inl rfl, (List.findIdx?_eq_some_iff_getElem.1 hk).1⟩
  · exact .inr ⟨_, k, _, h, .inr rfl, tcpHit_lt hk⟩

/-- Classification keeps the length of the table (10_state.md R37). -/
@[simp] theorem classify_socks_length (p : ParseRecord) (s : State) :
    (classify p s).2.length = s.socks.length := by
  rcases classify_noSlot_or_delivers p s with ⟨_, _, h, _⟩ | ⟨_, _, _, h, _⟩
  · rw [h]
  · rw [h, List.length_set]

/-! ## The verdict -/

/-- A verdict without a slot is sound when its class does not deliver and a reason goes with DROP
(10_state.md R26). -/
theorem verdictSound_noSlot {n : Nat} {c : FrameClass} {r : Reason} (hu : c ≠ .udp) (ht : c ≠ .tcp)
    (hr : c = .drop ↔ r ≠ .none) : VerdictSound n (noSlot c r) :=
  ⟨fun h => (h.elim hu ht).elim, fun _ _ => rfl, hr⟩

/-- A delivery to a slot of a table that the slot field can number is sound (10_state.md R26). -/
theorem verdictSound_toSlot {n k : Nat} {c : FrameClass} (hc : c = .udp ∨ c = .tcp) (hk : k < n)
    (hn : n ≤ 256) : VerdictSound n (toSlot c k) := by
  refine ⟨fun _ => ?_, fun hu ht => (hc.elim hu ht).elim, ?_⟩
  · rwa [toSlot_slot_toNat c (by omega)]
  · rcases hc with rfl | rfl <;> simp [toSlot]

/-- What `IP_CHECK` writes is sound (42_parse_validate.md R190). -/
theorem verdictSound_checkVerdict (n : Nat) (r : Reason) : VerdictSound n (checkVerdict r) := by
  by_cases h : r = .none
  · subst h; exact verdictSound_noSlot (c := .none) (by decide) (by decide) (by decide)
  · have hd : checkVerdict r = noSlot .drop r := by simp [checkVerdict, noSlot, h]
    exact hd ▸ verdictSound_noSlot (by decide) (by decide) (by simpa using h)

/-- What `DISPATCH` writes is sound in a table that the slot field can number (43_dispatch.md R210). -/
theorem verdictSound_classify (p : ParseRecord) (s : State) (hn : s.socks.length ≤ 256) :
    VerdictSound s.socks.length (classify p s).1 := by
  rcases classify_noSlot_or_delivers p s with ⟨_, _, h, hu, ht, hr⟩ | ⟨_, _, _, h, hc, hk⟩
  · exact h ▸ verdictSound_noSlot hu ht hr
  · exact h ▸ verdictSound_toSlot hc hk hn

/-! ## The parse record -/

theorem recordSound_empty : RecordSound ParseRecord.empty := by
  constructor <;> decide

/-- A record with L2 alone (42_parse_validate.md R182). -/
theorem recordSound_parseL2 (B : Nat → Byte) : RecordSound (parseL2 B) := by
  constructor <;> simp [parseL2, ParseRecord.empty]

/-- A record with L3 and no transport level (42_parse_validate.md R182). -/
theorem recordSound_recordL3 (s : State) : RecordSound (recordL3 s) := by
  constructor <;> simp [recordL3, parseL3, parseL2, ParseRecord.empty]

theorem recordSound_parseUdp (B : Nat → Byte) (s : State) :
    RecordSound (parseUdp B (recordL3 s)) := by
  constructor <;> simp [parseUdp, recordL3, parseL3, parseL2, ParseRecord.empty]

theorem recordSound_parseTcp (B : Nat → Byte) (s : State) :
    RecordSound (parseTcp B (recordL3 s)) := by
  constructor <;> simp [parseTcp, recordL3, parseL3, parseL2, ParseRecord.empty]

theorem recordSound_icmp (s : State) : RecordSound { recordL3 s with icmp := true } := by
  constructor <;> simp [recordL3, parseL3, parseL2, ParseRecord.empty]

/-- Whatever frame is received, the record of `parse()` is nested and exclusive
(42_parse_validate.md R187). -/
theorem recordSound_parseRx (s : State) : RecordSound (parseRx s) := by
  rcases parseRx_cases s with ⟨_, e⟩ | ⟨_, _, e⟩ | ⟨_, _, _, e⟩ | ⟨_, _, _, e⟩ | ⟨_, _, _, e⟩ |
    ⟨_, _, _, e⟩ | ⟨_, _, e⟩ | ⟨_, _, _, _, e⟩ <;> rw [e]
  · exact recordSound_empty
  · exact recordSound_parseL2 _
  · exact recordSound_parseUdp _ s
  · exact recordSound_recordL3 s
  · exact recordSound_parseTcp _ s
  · exact recordSound_recordL3 s
  · exact recordSound_icmp s
  · exact recordSound_recordL3 s

/-! ## The invariant -/

/-- The ranges of legal parameters (00_scope.md R8). -/
theorem params_legal_iff (p : Params) :
    p.legal = true ↔ 64 ≤ p.bufBytes ∧ p.bufBytes ≤ 65535 ∧ 1 ≤ p.nsock ∧ p.nsock ≤ 8 := by
  simp [Params.legal]

/-- The 8-bit slot numbers the table of a state that meets the invariant. -/
theorem Inv.socks_length_le {s : State} (h : Inv s) : s.socks.length ≤ 256 := by
  have hp := (params_legal_iff s.params).1 h.params
  have ht := h.table
  omega

/-- The clamp of `RX_LEN` (10_state.md R33). -/
theorem clampRxLen_toNat_le (s : State) (v : Word) : (clampRxLen s v).toNat ≤ s.params.bufBytes := by
  rw [clampRxLen, BitVec.toNat_ofNat]
  exact (Nat.mod_le _ _).trans (Nat.min_le_right _ _)

theorem inv_setSock {s : State} (h : Inv s) (k : Nat) (e : Sock) : Inv (setSock k e s) :=
  { h with table := (List.length_set ..).trans h.table }

/-- A register write keeps the invariant: only `RX_LEN` and the table words touch what it speaks of. -/
theorem inv_writeReg {s : State} (h : Inv s) (r : Reg) (v : Word) : Inv (writeReg r v s) := by
  cases r with
  | status => simp only [writeReg]; split <;> exact { h with }
  | rxLen =>
    exact { h with
      table := (List.length_map ..).trans h.table
      rxLen := clampRxLen_toNat_le s v }
  | sock k w => exact inv_setSock h k _
  | _ => exact { h with }

/-- The state after a reset meets the invariant for every legal choice of parameters
(70_reset_and_hazards.md R270). -/
theorem inv_resetWith {p : Params} (hp : p.legal = true) (epoch : Nat) :
    Inv (State.resetWith p epoch) where
  params := hp
  table := List.length_replicate
  tx := bufSound_empty _
  rx := bufSound_empty _
  rxLen := Nat.zero_le _
  verdict := verdictSound_noSlot (c := .none) (by decide) (by decide) (by decide)
  record := recordSound_empty

/-- Every elementary update keeps the invariant. -/
theorem inv_kept : KeptByUpdates Inv where
  completed _ _ h := { h with }
  failed _ _ h := { h with }
  txbuf off bs _ hr h := { h with tx := bufSound_setRange bs h.tx off hr }
  ident _ h := { h with }
  parse s h := { h with record := recordSound_parseRx s }
  check _ h := { h with verdict := verdictSound_checkVerdict _ _ }
  dispatch s h := { h with
    table := (classify_socks_length _ s).trans h.table
    verdict := h.table ▸ verdictSound_classify _ s h.socks_length_le
    record := recordSound_parseRx s }
  sock k e _ h := inv_setSock h k e
  cmd _ _ h := { h with }
  reg r v _ h := inv_writeReg h r v
  rxbuf off bs _ hr h := { h with rx := bufSound_setRange bs h.rx off hr }
  readData _ _ h := { h with }
  pending _ _ h := { h with }
  reset s h := { inv_resetWith h.params (s.epoch + 1) with }

/-- Settles O8: the default parameters of 00_scope.md R8 are legal. -/
theorem resetStateIsSound : Obligations.ResetStateIsSound :=
  inv_resetWith (by decide) 0

/-- Settles O9: the invariant is a property that every elementary update keeps. -/
theorem stepKeepsInvariant : Obligations.StepKeepsInvariant :=
  fun _ _ hs h => step_keeps inv_kept h hs

end Sys2Proof.Machine
end

section
/-! SUPPORT. What the words of one opcode do (30_encoding.md R90, R92, R93), and the effect of
`DISPATCH` (43_dispatch.md R210). -/

namespace Sys2Proof.Machine

open Sys2Proof

/-! ## The words of one opcode -/

/-- The decoder on the words of an assigned opcode (30_encoding.md R90). -/
theorem decode_of_opcodeField {w : Word} {op : Opcode} (h : opcodeField w = opcodeCode op) :
    decode w = if unusedFieldsZero op w then .ok (buildInstr op w) else .error .reserved := by
  rw [decode, h, opcodeOf_opcodeCode]

/-- A word that decodes is stored and performed (10_state.md R23). -/
theorem issueCommand_of_ok {w : Word} {i : Instr} (h : decode w = .ok i) (s : State) :
    issueCommand w s = exec i { s with cmd := w } := by
  rw [issueCommand, h]

/-- A word that is no command is stored and reported (30_encoding.md R90, 60_exceptions.md R240). -/
theorem issueCommand_of_error {w : Word} {e : DecodeError} (h : decode w = .error e) (s : State) :
    issueCommand w s = .next (errorState (decodeErrorCode e) w s) := by
  rw [issueCommand, h]; rfl

/-- The low byte of a word is its `OPCODE` field (30_encoding.md R91). -/
theorem and_255_eq_opcodeField (w : Word) : w &&& 0xFF#32 = (opcodeField w).setWidth 32 := by
  apply BitVec.eq_of_toNat_eq
  simp only [opcodeField, BitVec.toNat_and, BitVec.toNat_setWidth, BitVec.extractLsb'_toNat,
    BitVec.toNat_ofNat, Nat.shiftRight_zero]
  rw [show 255 % 2 ^ 32 = 2 ^ 8 - 1 from rfl, Nat.and_two_pow_sub_one_eq_mod]
  omega

/-- The row of an opcode: its words are those with the opcode, and among them exactly the ones that
match have every unused field zero (30_encoding.md R92, R93). -/
theorem rowWords_of_hits {op : Opcode} {matchBits mask : Word}
    (hits : ∀ w, w &&& mask = matchBits ↔
      opcodeField w = opcodeCode op ∧ unusedFieldsZero op w = true) :
    RowWords ((opcodeCode op).setWidth 32) matchBits mask (buildInstr op) := by
  refine fun w s => ⟨fun hm => ?_, fun hc hm => ?_⟩
  · obtain ⟨hop, hz⟩ := (hits w).1 hm
    exact issueCommand_of_ok (by rw [decode_of_opcodeField hop, if_pos hz]) s
  · have hop : opcodeField w = opcodeCode op := by
      rw [and_255_eq_opcodeField] at hc
      simpa using congrArg (BitVec.setWidth 8) hc
    have hz : ¬ unusedFieldsZero op w = true := fun hz => hm ((hits w).2 ⟨hop, hz⟩)
    exact issueCommand_of_error (by rw [decode_of_opcodeField hop, if_neg hz]) s

/-- A command without fields has one word, its opcode (30_encoding.md R92, R99). -/
theorem eq_setWidth_opcodeCode_iff {op : Opcode} (hoff : usesOff op = false)
    (hbsel : usesBsel op = false) (hslot : usesSlot op = false) (w : Word) :
    w = (opcodeCode op).setWidth 32 ↔
      opcodeField w = opcodeCode op ∧ unusedFieldsZero op w = true := by
  have hpack : (opcodeCode op).setWidth 32 = packWord (opcodeCode op) 0#1 0#1 0#3 0#16 := by
    cases op <;> rfl
  rw [hpack]
  constructor
  · rintro rfl
    simp [unusedFieldsZero]
  · rintro ⟨hop, hz⟩
    simp only [unusedFieldsZero, hoff, hbsel, hslot, Bool.false_or, Bool.and_eq_true, beq_iff_eq]
      at hz
    obtain ⟨⟨⟨hrsv, ho⟩, hb⟩, hm, hs⟩ := hz
    rw [← packWord_fields w hrsv, hop, hb, hm, hs, ho]

/-- The row of a command without fields: its one word performs it (30_encoding.md R93). -/
theorem rowWords_of_no_fields {op : Opcode} (hoff : usesOff op = false) (hbsel : usesBsel op = false)
    (hslot : usesSlot op = false) :
    RowWords ((opcodeCode op).setWidth 32) ((opcodeCode op).setWidth 32) 0xFFFFFFFF#32
      (buildInstr op) :=
  rowWords_of_hits fun w => by
    rw [show (0xFFFFFFFF#32) = BitVec.allOnes 32 from rfl, BitVec.and_allOnes]
    exact eq_setWidth_opcodeCode_iff hoff hbsel hslot w

/-! ## DISPATCH -/

/-- In a table that the slot field can number, classification changes no entry but the one the
verdict's slot names (43_dispatch.md R210). -/
theorem sockAt_classify_of_ne_slot (p : ParseRecord) {s t : State} (ht : t.socks = (classify p s).2)
    (hn : s.socks.length ≤ 256) {j : Nat} (hj : j ≠ (classify p s).1.slot.toNat) :
    sockAt t j = sockAt s j := by
  rcases classify_noSlot_or_delivers p s with ⟨_, _, h, _⟩ | ⟨c, k, e, h, _, hk⟩
  · rw [sockAt, ht, h, sockAt]
  · rw [h, toSlot_slot_toNat c (by omega)] at hj
    have hset : t.socks = (setSock k e s).socks := by rw [ht, h]; rfl
    rw [sockAt, hset, ← sockAt, sockAt_setSock s k j e hk, if_neg hj]

/-- Classification that does not deliver keeps the table (43_dispatch.md R210). -/
theorem classify_socks_of_not_delivery (p : ParseRecord) (s : State)
    (hu : (classify p s).1.cls ≠ .udp) (ht : (classify p s).1.cls ≠ .tcp) :
    (classify p s).2 = s.socks := by
  rcases classify_noSlot_or_delivers p s with ⟨_, _, h, _⟩ | ⟨_, _, _, h, hc, _⟩
  · rw [h]
  · rw [h] at hu ht
    exact (hc.elim hu ht).elim

/-- Settles O42: the row of a command without fields, and what classification does to the table. -/
theorem dispatchWritesParseVerdictAndOneEntry :
    Obligations.DispatchWritesParseVerdictAndOneEntry := by
  refine ⟨rowWords_of_no_fields (op := .dispatch) rfl rfl rfl, fun s => ?_⟩
  refine ⟨_, _, rfl, rfl, rfl, rfl, classify_socks_length _ s, fun hn j hj => ?_, ?_, rfl⟩
  · exact sockAt_classify_of_ne_slot (parseRx s) rfl hn hj
  · exact classify_socks_of_not_delivery (parseRx s) s

end Sys2Proof.Machine
end

section
/-! SUPPORT. What a command writes, said once: every command answers a next state, which is the state
it leaves before it ends, completed with a value, or the error state (10_state.md R24, R25,
60_exceptions.md R240). -/

namespace Sys2Proof.Machine

open Sys2Proof

/-! ## What a successful command writes -/

/-- The port table after `SOCK_ALLOC`: the first unused entry taken, if there is one
(43_dispatch.md R220). -/
def allocated (s : State) : List Sock :=
  match s.socks.findIdx? sockUnused with
  | some k => s.socks.set k (allocEntry s)
  | none => s.socks

/-- The state a successful command leaves before `STATUS` and `RESULT` are set (`exec_ends`). -/
def written (i : Instr) (s : State) : State :=
  match i with
  | .nop | .csum _ _ | .udpVerify | .tcpVerify => s
  | .ethAdd off => writeBuf .tx off (ethHeader s) s
  | .ipAdd off => advanceIdent (writeBuf .tx off (ipHeader s) s)
  | .udpAdd off => writeBuf .tx off (udpHeader off s) s
  | .tcpAdd off => writeBuf .tx off (tcpHeader off s) s
  | .parse => { s with pr := parseRx s }
  | .ipCheck => { s with verdict := checkVerdict (admission s) }
  | .dispatch =>
    { s with
      pr := parseRx s
      verdict := (classify (parseRx s) s).1
      socks := (classify (parseRx s) s).2 }
  | .sockAlloc => { s with socks := allocated s }
  | .sockClear slot mode => setSock slot (clearedEntry mode (sockAt s slot)) s

/-- Every command ends, from every state: in an error, or with a value over what it writes
(60_exceptions.md R240, R243). -/
theorem exec_ends (i : Instr) (s : State) :
    (∃ c, exec i s = .next (failed c s)) ∨ ∃ v, exec i s = .next (completed v (written i s)) := by
  cases i with
  | nop | parse | ipCheck | udpVerify | tcpVerify | dispatch => exact .inr ⟨_, rfl⟩
  | ethAdd off =>
    simp only [exec, execEthAdd]
    split_ifs
    exacts [.inr ⟨_, rfl⟩, .inl ⟨_, rfl⟩]
  | ipAdd off =>
    simp only [exec, execIpAdd]
    split_ifs
    exacts [.inl ⟨_, rfl⟩, .inr ⟨_, rfl⟩, .inl ⟨_, rfl⟩]
  | udpAdd off =>
    simp only [exec, execUdpAdd]
    split_ifs
    exacts [.inl ⟨_, rfl⟩, .inr ⟨_, rfl⟩, .inl ⟨_, rfl⟩]
  | tcpAdd off =>
    simp only [exec, execTcpAdd]
    split_ifs
    exacts [.inl ⟨_, rfl⟩, .inr ⟨_, rfl⟩, .inl ⟨_, rfl⟩]
  | csum off buf =>
    simp only [exec, execCsum]
    split_ifs
    exacts [.inr ⟨_, rfl⟩, .inl ⟨_, rfl⟩]
  | sockAlloc =>
    simp only [exec, execSockAlloc, written, allocated]
    split
    · exact .inl ⟨_, rfl⟩
    · cases s.socks.findIdx? sockUnused with
      | some k => exact .inr ⟨_, rfl⟩
      | none => exact .inr ⟨_, rfl⟩
  | sockClear slot mode =>
    simp only [exec, execSockClear]
    split_ifs
    exacts [.inr ⟨_, rfl⟩, .inl ⟨_, rfl⟩]

/-- A command writes `VERDICT`, `IP_IDENT`, the parse record, the port table and `TXBUF`, and nothing
else (10_state.md R20, R22, 20_memory.md R62). -/
theorem written_frame (i : Instr) (s : State) :
    ∃ verdict ident pr socks txbuf, written i s = { s with
      verdict := verdict, ipIdent := ident, pr := pr, socks := socks, txbuf := txbuf } := by
  cases i <;> simp only [written, writeBuf, advanceIdent, setSock] <;> exact ⟨_, _, _, _, _, rfl⟩

/-- Only `IP_ADD` advances `IP_IDENT` (10_state.md R30). -/
theorem written_ipIdent {i : Instr} (s : State) (h : opcodeOfInstr i ≠ .ipAdd) :
    (written i s).ipIdent = s.ipIdent := by
  cases i with
  | ipAdd => exact absurd rfl h
  | _ => simp [written]

/-- Only `PARSE` and `DISPATCH` write `PR_*` (10_state.md R35). -/
theorem written_pr {i : Instr} (s : State) (hp : opcodeOfInstr i ≠ .parse)
    (hd : opcodeOfInstr i ≠ .dispatch) : (written i s).pr = s.pr := by
  cases i with
  | parse => exact absurd rfl hp
  | dispatch => exact absurd rfl hd
  | _ => simp [written]

/-- Only `IP_CHECK` and `DISPATCH` write `VERDICT` (10_state.md R26). -/
theorem written_verdict {i : Instr} (s : State) (hc : opcodeOfInstr i ≠ .ipCheck)
    (hd : opcodeOfInstr i ≠ .dispatch) : (written i s).verdict = s.verdict := by
  cases i with
  | ipCheck => exact absurd rfl hc
  | dispatch => exact absurd rfl hd
  | _ => simp [written]

/-- Only the add-header commands write `TXBUF` (20_memory.md R62). -/
theorem written_txbuf {i : Instr} (s : State)
    (h : opcodeOfInstr i ∉ [Opcode.ethAdd, .ipAdd, .udpAdd, .tcpAdd]) :
    (written i s).txbuf = s.txbuf := by
  cases i with
  | ethAdd | ipAdd | udpAdd | tcpAdd => exact absurd (by simp [opcodeOfInstr]) h
  | _ => simp [written]

/-- Only `DISPATCH` and the port-table commands write the port table (10_state.md R37). -/
theorem written_socks {i : Instr} (s : State)
    (h : opcodeOfInstr i ∉ [Opcode.dispatch, .sockAlloc, .sockClear]) :
    (written i s).socks = s.socks := by
  cases i with
  | dispatch | sockAlloc | sockClear => exact absurd (by simp [opcodeOfInstr]) h
  | _ => simp [written]

/-- Settles O52: a command that fails writes `STATUS` and `RESULT` alone, one that succeeds also what
`written` says. -/
theorem commandsWriteOnlyTheirOwn : Obligations.CommandsWriteOnlyTheirOwn := by
  intro i s
  rcases exec_ends i s with ⟨c, h⟩ | ⟨v, h⟩
  · exact ⟨_, h, rfl, fun _ => rfl, fun _ _ => rfl, fun _ _ => rfl, fun _ => rfl, fun _ => rfl⟩
  · refine ⟨_, h, ?_, written_ipIdent s, written_pr s, written_verdict s, written_txbuf s,
      written_socks s⟩
    obtain ⟨_, _, _, _, _, hw⟩ := written_frame i s
    rw [hw]
    rfl

/-- A write of `CMD` keeps the word, whatever it encodes, and takes no further event
(10_state.md R23, 60_exceptions.md R243). -/
theorem issueCommand_next (w : Word) (s : State) :
    ∃ t, issueCommand w s = .next t ∧ t.cmd = w ∧ t.pending = s.pending := by
  rcases issueCommand_cases w s with ⟨i, _, h⟩ | ⟨_, h⟩ | ⟨_, h⟩
  · obtain ⟨t, ht, hframe, _⟩ := commandsWriteOnlyTheirOwn i { s with cmd := w }
    exact ⟨t, h.trans ht, by rw [hframe], by rw [hframe]⟩
  · exact ⟨_, h, rfl, rfl⟩
  · exact ⟨_, h, rfl, rfl⟩

end Sys2Proof.Machine
end

section
/-! SUPPORT. What a host access to register space does, said once: the register an offset has, a step
that writes or reads it, and a read after another access (10_state.md R22 to R41,
20_memory.md R66 to R68). -/

namespace Sys2Proof.Machine

open Sys2Proof

/-! ## The register at an offset -/

/-- The register of a row of the fixed map (10_state.md R22, R35). -/
theorem regAt_of_mem {off : Nat} {r : Reg} (h : (off, r) ∈ registerMap) (nsock : Nat) :
    regAt nsock off = some r := by
  have hl : ∀ p ∈ registerMap, registerMap.lookup p.1 = some p.2 := by decide
  rw [regAt, hl _ h]

/-- An aligned offset of the fixed map lies in register space (20_memory.md R60, R67). -/
theorem offset_of_mem {off : Nat} {r : Reg} (h : (off, r) ∈ registerMap) :
    off < 0x10000 ∧ off % 4 = 0 := by
  have hl : ∀ p ∈ registerMap, p.1 < 0x10000 ∧ p.1 % 4 = 0 := by decide
  exact hl _ h

/-- The assigned words of an entry are its first seven (10_state.md R37). -/
theorem sockWordAt_offset {o : Nat} {w : SockWord} (h : sockWordAt o = some w) :
    ∃ j, j < 7 ∧ o = 4 * j := by
  unfold sockWordAt at h
  split_ifs at h
  exacts [⟨0, by omega⟩, ⟨1, by omega⟩, ⟨2, by omega⟩, ⟨3, by omega⟩, ⟨4, by omega⟩, ⟨5, by omega⟩,
    ⟨6, by omega⟩]

/-- Only the offsets that the rules name have a register (10_state.md R22, R35, R37). -/
theorem assignedOffset_of_regAt {nsock off : Nat} {r : Reg} (h : regAt nsock off = some r) :
    AssignedOffset nsock off := by
  unfold regAt at h
  split at h
  · rename_i q hq
    have hm : ∀ p ∈ registerMap, p.1 ∈ [0x000, 0x004, 0x008, 0x00C, 0x010, 0x020, 0x024, 0x028, 0x02C,
        0x030, 0x034, 0x040, 0x044, 0x048, 0x04C, 0x050, 0x054, 0x058, 0x05C]
        ∨ ∃ j, j < 18 ∧ p.1 = 0x080 + 4 * j := by decide
    obtain ⟨l, l', hmap, _⟩ := List.lookup_eq_some_iff.1 hq
    rcases hm (off, q) (by rw [hmap]; simp) with h | h
    · exact .inl h
    · exact .inr (.inl h)
  · unfold sockRegAt at h
    split_ifs at h with hk
    obtain ⟨w, hw, _⟩ := Option.map_eq_some_iff.1 h
    obtain ⟨j, hj, ho⟩ := sockWordAt_offset hw
    exact .inr (.inr ⟨(off - 0x100) / 0x20, j, hk.2, hj, by omega⟩)

/-! ## A write to an offset -/

section
variable {s : State} {off : Nat} {v : Word} {rest : List Event}

/-- A host write to a register other than `CMD` (20_memory.md R68). -/
theorem step_regWrite_of_reg {r : Reg} (h : s.pending = regWrite s off v :: rest)
    (ho : off < 0x10000) (h4 : off % 4 = 0) (hr : regAt s.params.nsock off = some r) (hc : r ≠ .cmd) :
    step s = .next (writeReg r v { s with pending := rest }) := by
  rw [step_regWrite h ho h4]
  simp only [writeTarget]
  rw [hr]
  cases r with
  | cmd => exact absurd rfl hc
  | _ => rfl

/-- A host write to an offset without a register is ignored (10_state.md R40). -/
theorem step_regWrite_of_none (h : s.pending = regWrite s off v :: rest)
    (ho : off < 0x10000) (h4 : off % 4 = 0) (hr : regAt s.params.nsock off = none) :
    step s = .next { s with pending := rest } := by
  rw [step_regWrite h ho h4]
  simp only [writeTarget, hr]

/-- A host write of `CMD` issues the command word (10_state.md R23). -/
theorem step_regWrite_cmd {w : Word} (h : s.pending = regWrite s 0 w :: rest) :
    step s = issueCommand w { s with pending := rest } :=
  step_regWrite h (by decide) (by decide)

/-! ## A read of an offset, and a read after another access -/

/-- A read of an offset with a register (10_state.md R22). -/
theorem readTarget_of_reg {r : Reg} (hr : regAt s.params.nsock off = some r) :
    readTarget (.register off) .word s = readReg s r := by
  simp only [readTarget, hr]

/-- A read of an offset without a register (10_state.md R40). -/
theorem readTarget_of_none (hr : regAt s.params.nsock off = none) :
    readTarget (.register off) .word s = 0#32 := by
  simp only [readTarget, hr]

/-- A host read of an offset without a register (10_state.md R40). -/
theorem step_regRead_of_none (h : s.pending = regRead s off :: rest)
    (ho : off < 0x10000) (h4 : off % 4 = 0) (hr : regAt s.params.nsock off = none) :
    step s = .next { s with pending := rest, readData := 0#32 } :=
  (step_regRead h ho h4).trans (congrArg
    (fun d => Host.Outcome.next { s with pending := rest, readData := d }) (readTarget_of_none hr))

/-- What a register reads does not depend on the host's own fields (logs 1 and 14). -/
theorem readReg_of_host_fields (s : State) (es : List Event) (d : Word) (r : Reg) :
    readReg { s with pending := es, readData := d } r = readReg s r := by
  cases r <;> rfl

/-- What register space reads does not depend on the events still pending (log 1). -/
theorem readTarget_of_pending (s : State) (es : List Event) (off : Nat) :
    readTarget (.register off) .word { s with pending := es } = readTarget (.register off) .word s := by
  cases hr : regAt s.params.nsock off with
  | none => exact (readTarget_of_none hr).trans (readTarget_of_none hr).symm
  | some r =>
    calc readTarget (.register off) .word { s with pending := es }
      _ = readReg { s with pending := es } r := readTarget_of_reg hr
      _ = readReg s r := readReg_of_host_fields s es s.readData r
      _ = readTarget (.register off) .word s := (readTarget_of_reg hr).symm

/-- A step that answers `t`, and then the read of a register (20_memory.md R66, R68). -/
theorem run_then_regRead {t : State} (ho : off < 0x10000) (h4 : off % 4 = 0)
    (ht : step s = .next t) (hp : t.pending = regRead s off :: rest) :
    Host.Core.run Sys2Proof.core 2 s = .next { t with
      pending := rest, readData := readTarget (.register off) .word t } := by
  have hread : regRead s off = regRead t off := by
    rw [regRead, regRead, parametersNeverChange s t ht]
  have hstep := step_regRead (hp.trans (by rw [hread])) ho h4
  rw [readTarget_of_pending] at hstep
  simp only [Host.Core.run, Sys2Proof.core, ht, hstep]

end

end Sys2Proof.Machine
end

section
/-! SUPPORT. What a register holds after a host write, and the statements about host accesses to
register space (10_state.md R22 to R41). -/

namespace Sys2Proof.Machine

open Sys2Proof

/-! ## The named bits of a word -/

/-- The mask of the low `k` bits keeps those bits. -/
theorem and_lowMask (v : Word) (k : Nat) :
    v &&& BitVec.ofNat 32 (2 ^ k - 1) = (v.setWidth k).setWidth 32 := by
  apply BitVec.eq_of_getLsbD_eq
  intro i hi
  rw [BitVec.getLsbD_and, BitVec.getLsbD_ofNat, Nat.testBit_two_pow_sub_one]
  simp [hi, Bool.and_comm]

/-- A register of 32 named bits holds the word written (10_state.md R28, R41). -/
theorem and_allBits (v : Word) : v &&& 0xFFFFFFFF#32 = v := BitVec.and_allOnes

/-- A register of 16 named bits reads the low half of the word (10_state.md R41). -/
theorem lowHalf_setWidth (v : Word) : (lowHalf v).setWidth 32 = v &&& 0x0000FFFF#32 := by
  rw [lowHalf, ← BitVec.setWidth_eq_extractLsb' (by decide)]
  exact (and_lowMask v 16).symm

/-- A register of 8 named bits reads the low byte of the word (10_state.md R41). -/
theorem lowByte_setWidth (v : Word) : (lowByte v).setWidth 32 = v &&& 0x000000FF#32 := by
  rw [lowByte, ← BitVec.setWidth_eq_extractLsb' (by decide)]
  exact (and_lowMask v 8).symm

/-- `CTRL` holds bits 1 and 0 (10_state.md R27). -/
theorem ctrlWord_ctrlOfWord (v : Word) : ctrlWord (ctrlOfWord v) = v &&& 0x00000003#32 := by
  refine .trans ?_ (and_lowMask v 2).symm
  apply BitVec.eq_of_getLsbD_eq
  intro i hi
  simp only [ctrlWord, ctrlOfWord, BitVec.getLsbD_append, BitVec.getLsbD_ofBool,
    BitVec.getLsbD_setWidth, BitVec.getLsbD_zero]
  grind

@[simp] theorem kindBit_kindOfBit (b : Bool) : kindBit (kindOfBit b) = BitVec.ofBool b := by
  cases b <;> rfl

/-- Word 0 of a port-table entry holds bits 18 to 0 (10_state.md R37). -/
theorem sockCtlWord_writeSock (v : Word) (e : Sock) :
    sockCtlWord (writeSock .ctl v e) = v &&& 0x0007FFFF#32 := by
  refine .trans ?_ (and_lowMask v 19).symm
  apply BitVec.eq_of_getLsbD_eq
  intro i hi
  simp only [sockCtlWord, writeSock, kindBit_kindOfBit, lowHalf, BitVec.getLsbD_append,
    BitVec.getLsbD_ofBool, BitVec.getLsbD_setWidth, BitVec.getLsbD_extractLsb', BitVec.getLsbD_zero]
  grind

/-- Bit 8 of a word under its mask (10_state.md R24). -/
theorem and_bit8 (v : Word) : v &&& 0x100#32 = if v.getLsbD 8 then 0x100#32 else 0#32 :=
  BitVec.and_twoPow v 8

/-! ## Registers with named bits and no side effect -/

/-- The named bits of a register that a host write stores with no other effect (10_state.md R27 to R32,
R34); none for every other register. -/
def storedBits : Reg → Option Word
  | .ctrl => some 0x00000003#32
  | .a0 | .a1 | .a2 | .a3 | .a4 | .a5 | .macHi | .ipAddr => some 0xFFFFFFFF#32
  | .macLo | .ipIdent | .tcpMss => some 0x0000FFFF#32
  | .ipTtl | .rxChan => some 0x000000FF#32
  | .cmd | .status | .result | .verdict | .rxLen | .pr _ | .sock _ _ => none

section
variable {r : Reg} {m : Word}

/-- Such a register reads the named bits of what was written (10_state.md R41). -/
theorem readReg_writeReg_stored (h : storedBits r = some m) (v : Word) (s : State) :
    readReg (writeReg r v s) r = v &&& m := by
  cases r with
  | ctrl => cases h; exact ctrlWord_ctrlOfWord v
  | a0 | a1 | a2 | a3 | a4 | a5 | macHi | ipAddr => cases h; exact (and_allBits v).symm
  | macLo | ipIdent | tcpMss => cases h; exact lowHalf_setWidth v
  | ipTtl | rxChan => cases h; exact lowByte_setWidth v
  | cmd | status | result | verdict | rxLen | pr | sock => cases h

/-- A write to such a register leaves what every other register reads (20_memory.md R68). -/
theorem readReg_writeReg_of_ne (h : storedBits r = some m) {q : Reg} (hq : q ≠ r) (v : Word)
    (s : State) : readReg (writeReg r v s) q = readReg s q := by
  cases r with
  | cmd | status | result | verdict | rxLen | pr | sock => cases h
  | _ => cases q <;> first | exact absurd rfl hq | rfl

/-- A write to such a register writes a configuration or argument register (20_memory.md R68). -/
theorem writeReg_stored_frame (h : storedBits r = some m) (v : Word) (s : State) :
    writeReg r v s = { s with
      ctrl := (writeReg r v s).ctrl, a0 := (writeReg r v s).a0, a1 := (writeReg r v s).a1,
      a2 := (writeReg r v s).a2, a3 := (writeReg r v s).a3, a4 := (writeReg r v s).a4,
      a5 := (writeReg r v s).a5, macHi := (writeReg r v s).macHi, macLo := (writeReg r v s).macLo,
      ipAddr := (writeReg r v s).ipAddr, ipIdent := (writeReg r v s).ipIdent,
      ipTtl := (writeReg r v s).ipTtl, tcpMss := (writeReg r v s).tcpMss,
      rxChan := (writeReg r v s).rxChan } := by
  cases r with
  | cmd | status | result | verdict | rxLen | pr | sock => cases h
  | _ => rfl

end

/-- A register write neither reads nor takes the pending events. -/
theorem writeReg_with_pending (r : Reg) (v : Word) (s : State) (es : List Event) :
    writeReg r v { s with pending := es } = { writeReg r v s with pending := es } := by
  cases r with
  | status => simp only [writeReg]; split <;> rfl
  | _ => rfl

/-- A host write to a register other than `CMD`, and the read back (20_memory.md R68). -/
theorem run_regWrite_regRead {s : State} {off : Nat} {v : Word} {rest : List Event} {r : Reg}
    (h : s.pending = regWrite s off v :: regRead s off :: rest) (ho : off < 0x10000)
    (h4 : off % 4 = 0) (hr : regAt s.params.nsock off = some r) (hc : r ≠ .cmd) :
    Host.Core.run Sys2Proof.core 2 s = .next { writeReg r v s with
      pending := rest, readData := readReg (writeReg r v s) r } := by
  have hstep := (step_regWrite_of_reg h ho h4 hr hc).trans
    (congrArg _ (writeReg_with_pending r v s (regRead s off :: rest)))
  have hread : readTarget (.register off) .word
      { writeReg r v s with pending := regRead s off :: rest } = readReg (writeReg r v s) r :=
    (readTarget_of_pending _ _ off).trans (readTarget_of_reg (by rwa [writeReg_params]))
  exact (run_then_regRead ho h4 hstep rfl).trans (congrArg
    (fun d => Host.Outcome.next { writeReg r v s with pending := rest, readData := d }) hread)

/-- Settles O15: a register with named bits and no side effect is written, then read. -/
theorem writableRegistersReadBack : Obligations.WritableRegistersReadBack := by
  intro p hp s v rest h
  have hrow : (p.1, p.2.2) ∈ registerMap ∧ storedBits p.2.2 = some p.2.1 := by
    clear h
    revert p
    decide
  obtain ⟨hmap, hbits⟩ := hrow
  obtain ⟨ho, h4⟩ := offset_of_mem hmap
  have hc : p.2.2 ≠ .cmd := fun hc => by rw [hc] at hbits; cases hbits
  have hread := readReg_writeReg_stored hbits v s
  refine ⟨_, run_regWrite_regRead h ho h4 (regAt_of_mem hmap _) hc, hread,
    (readReg_of_host_fields _ _ _ _).trans hread, fun q hq => ?_, ?_⟩
  · exact (readReg_of_host_fields _ _ _ _).trans (readReg_writeReg_of_ne hbits hq v s)
  · exact congrArg (fun u : State => { u with
      pending := rest, readData := readReg (writeReg p.2.2 v s) p.2.2 })
      (writeReg_stored_frame hbits v s)

/-! ## Read-only registers, STATUS and RX_LEN -/

/-- The registers that ignore host writes (10_state.md R25, R26, R35). -/
def readOnly : Reg → Bool
  | .result | .verdict | .pr _ => true
  | _ => false

/-- A host write to a read-only register changes nothing (10_state.md R41). -/
theorem writeReg_readOnly {r : Reg} (h : readOnly r = true) (v : Word) (s : State) :
    writeReg r v s = s := by
  cases r with
  | result | verdict | pr => rfl
  | _ => cases h

/-- The offsets of the read-only registers (10_state.md R22, R35). -/
theorem exists_readOnly_at {off : Nat}
    (h : off = 0x008 ∨ off = 0x00C ∨ ∃ j, j < 18 ∧ off = 0x080 + 4 * j) :
    ∃ r, (off, r) ∈ registerMap ∧ readOnly r = true := by
  have hpr : ∀ j < 18, ∃ p ∈ registerMap, p.1 = 0x080 + 4 * j ∧ readOnly p.2 = true := by decide
  rcases h with rfl | rfl | ⟨j, hj, rfl⟩
  · exact ⟨.result, by decide, rfl⟩
  · exact ⟨.verdict, by decide, rfl⟩
  · obtain ⟨⟨off, r⟩, hm, rfl, hr⟩ := hpr j hj
    exact ⟨r, hm, hr⟩

/-- Settles O18: the write reaches a read-only register. -/
theorem readOnlyRegistersIgnoreWrites : Obligations.ReadOnlyRegistersIgnoreWrites := by
  intro s off v rest hoff h
  obtain ⟨r, hm, hr⟩ := exists_readOnly_at hoff
  obtain ⟨ho, h4⟩ := offset_of_mem hm
  have hc : r ≠ .cmd := by rintro rfl; cases hr
  rw [step_regWrite_of_reg h ho h4 (regAt_of_mem hm _) hc, writeReg_readOnly hr]

/-- Settles O19: bit 8 of the word decides whether `STICKY` is cleared. -/
theorem statusWriteClearsSticky : Obligations.StatusWriteClearsSticky := by
  intro s v rest h
  have hm : (4, Reg.status) ∈ registerMap := by decide
  obtain ⟨ho, h4⟩ := offset_of_mem hm
  rw [step_regWrite_of_reg h ho h4 (regAt_of_mem hm _) (by decide), and_bit8, writeReg]
  cases v.getLsbD 8 with
  | true => exact ⟨fun _ => rfl, fun h => absurd h (by decide)⟩
  | false => exact ⟨fun h => absurd h (by decide), fun _ => rfl⟩

/-- What a write to `RX_LEN` stores, as a number (10_state.md R33). -/
theorem clampRxLen_toNat (s : State) (v : Word) :
    (clampRxLen s v).toNat = min (v.toNat % 65536) s.params.bufBytes := by
  simp only [clampRxLen, lowHalf, BitVec.toNat_ofNat, BitVec.extractLsb'_toNat, Nat.shiftRight_zero]
  omega

/-- Entry `k` after an `RX_LEN` write (10_state.md R33). -/
theorem sockAt_writeReg_rxLen (v : Word) (s : State) (k : Nat) :
    sockAt (writeReg .rxLen v s) k = { sockAt s k with rxpend := false } :=
  List.getD_map s.socks Sock.empty clearRxpend

/-- Settles O20: the clamp as a number, and `RXPEND` entry by entry. -/
theorem rxLenWriteClampsAndClearsRxpend : Obligations.RxLenWriteClampsAndClearsRxpend := by
  refine ⟨fun s v rest h => ?_, fun _ _ => rfl⟩
  have hm : (0x058, Reg.rxLen) ∈ registerMap := by decide
  obtain ⟨ho, h4⟩ := offset_of_mem hm
  have hclamp := clampRxLen_toNat s v
  refine ⟨_, step_regWrite_of_reg h ho h4 (regAt_of_mem hm _) (by decide), hclamp, ?_,
    List.length_map .., sockAt_writeReg_rxLen v _, rfl⟩
  calc (readReg (writeReg .rxLen v { s with pending := rest }) .rxLen).toNat
    _ = (clampRxLen s v).toNat := BitVec.toNat_setWidth_of_le (by decide)
    _ = min (v.toNat % 65536) s.params.bufBytes := hclamp

/-! ## Offsets without a register -/

/-- Settles O17: an offset that the rules do not assign has no register. -/
theorem unassignedOffsetsAreInert : Obligations.UnassignedOffsetsAreInert := by
  intro s off v rest ho h4 hun
  have hnone : regAt s.params.nsock off = none := by
    cases hr : regAt s.params.nsock off with
    | none => rfl
    | some r => exact absurd (assignedOffset_of_regAt hr) hun
  exact ⟨fun h => step_regRead_of_none h ho h4 hnone, fun h => step_regWrite_of_none h ho h4 hnone⟩

/-! ## The port table -/

/-- The named bits of a port-table word; the reserved word has none (10_state.md R37, R40). -/
def sockBits : Option SockWord → Word
  | some .ctl => 0x0007FFFF#32
  | some .rip | some .rmacHi => 0xFFFFFFFF#32
  | some .rport | some .rmacLo | some .rxoff | some .rxlen => 0x0000FFFF#32
  | none => 0x00000000#32

/-- A port-table word reads the named bits of what was written (10_state.md R37, R41). -/
theorem readSock_writeSock (w : SockWord) (v : Word) (e : Sock) :
    readSock (writeSock w v e) w = v &&& sockBits (some w) := by
  cases w with
  | ctl => exact sockCtlWord_writeSock v e
  | rip | rmacHi => exact (and_allBits v).symm
  | rport | rmacLo | rxoff | rxlen => exact lowHalf_setWidth v

/-- A write to a port-table word leaves the other words of the entry (10_state.md R37). -/
theorem readSock_writeSock_of_ne {w x : SockWord} (h : x ≠ w) (v : Word) (e : Sock) :
    readSock (writeSock w v e) x = readSock e x := by
  cases w <;> cases x <;> first | exact absurd rfl h | rfl

/-- Settles O21: a word of the entry is written, then read; the reserved word has no register. -/
theorem portTableWordsReadBack : Obligations.PortTableWordsReadBack := by
  intro p hp s k v rest hn hlen hk h
  have hrow : p.1 < 0x20 ∧ p.1 % 4 = 0 ∧ p.2 = sockBits (sockWordAt p.1) := by
    clear h
    revert p
    decide
  obtain ⟨hlt, hal, hbits⟩ := hrow
  have hreg := regAt_sock s.params.nsock k p.1 hk hlt
  have ho : 0x100 + 0x20 * k + p.1 < 0x10000 := by omega
  have h4 : (0x100 + 0x20 * k + p.1) % 4 = 0 := by omega
  rw [hbits]
  cases hw : sockWordAt p.1 with
  | none =>
    rw [hw] at hreg
    have hrun := run_then_regRead ho h4 (step_regWrite_of_none h ho h4 hreg) rfl
    refine ⟨_, hrun, ?_, fun _ _ => rfl, fun _ _ => rfl, rfl⟩
    exact (readTarget_of_none hreg).trans BitVec.and_zero.symm
  | some w =>
    rw [hw] at hreg
    have hself : sockAt (writeReg (.sock k w) v s) k = writeSock w v (sockAt s k) :=
      (sockAt_setSock s k k _ (by omega)).trans (if_pos rfl)
    refine ⟨_, run_regWrite_regRead h ho h4 hreg nofun, ?_, fun x hx => ?_, fun j hj => ?_, rfl⟩
    · exact (congrArg (readSock · w) hself).trans (readSock_writeSock w v _)
    · exact (congrArg (readSock · x) hself).trans
        (readSock_writeSock_of_ne (fun hxw => hx (by rw [hxw])) v _)
    · exact (sockAt_setSock s k j _ (by omega)).trans (if_neg hj)

/-! ## CMD -/

/-- Settles O5: the write of `CMD` issues the word. -/
theorem stepRunsTheDecodedCommand : Obligations.StepRunsTheDecodedCommand := by
  intro s w rest h
  rw [step_regWrite_cmd h]
  exact ⟨fun i hi => issueCommand_of_ok hi _, fun he => issueCommand_of_error he _,
    fun he => issueCommand_of_error he _⟩

/-- Settles O16: a write of `CMD` keeps its word and the read after it. -/
theorem cmdReadsBackTheLastWord : Obligations.CmdReadsBackTheLastWord := by
  intro s w rest h
  obtain ⟨t, ht, hcmd, hp⟩ := issueCommand_next w { s with pending := regRead s 0 :: rest }
  have hrun := run_then_regRead (by decide) (by decide) ((step_regWrite_cmd h).trans ht) hp
  have hreg : regAt t.params.nsock 0 = some .cmd := regAt_of_mem (by decide) _
  exact ⟨_, hrun, (readTarget_of_reg hreg).trans hcmd, hcmd⟩

end Sys2Proof.Machine
end

section
/-! SUPPORT. What one host access does, said once: the target its address has, when it stops, and that
an allowed one answers a next state (20_memory.md R60, R67 to R69); with it the statements about every
access and about safe runs. -/

namespace Sys2Proof.Machine

open Sys2Proof

/-! ## The address and the width of an access -/

/-- The host address of an access. -/
def Access.addr : Access → Nat
  | .read addr _ | .write addr _ _ => addr

/-- The width of an access. -/
def Access.width : Access → Width
  | .read _ width | .write _ width _ => width

/-- The accesses of a safe run are those that R67 allows. -/
theorem eventOk_access (base : Nat) (a : Access) :
    eventOk base (.access a) = accessOk base a.addr a.width := by
  cases a <;> rfl

/-- An access that R67 allows has a target. -/
theorem accessOk_iff {base addr : Nat} {width : Width} :
    accessOk base addr width = true
      ↔ ∃ t, locate base addr = some t ∧ accessAllowed t width = true := by
  unfold accessOk
  cases locate base addr <;> simp

/-! ## Where an address lies -/

/-- An address of register space, by its bounds (20_memory.md R60). -/
theorem locate_of_register {base addr : Nat} (h : base ≤ addr) (h' : addr < base + 0x10000) :
    locate base addr = some (.register (addr - base)) := by
  have hl := locate_register base (addr - base) (by omega)
  rwa [Nat.add_sub_cancel' h] at hl

/-- An address of either window (20_memory.md R60). -/
theorem locate_window (base : Nat) (b : Buf) {w : Nat} (h : w < 0x10000) :
    locate base (base + (windowBase b + w)) = some (.window b w) := by
  cases b with
  | tx => exact locate_tx base w h
  | rx => exact locate_rx base w h

/-- An address of a window, by its bounds (20_memory.md R60). -/
theorem exists_locate_of_window {base addr : Nat} (b : Buf) (h : base + windowBase b ≤ addr)
    (h' : addr < base + windowBase b + 0x10000) :
    ∃ w, locate base addr = some (.window b w) ∧ addr - base = windowBase b + w := by
  have hl := locate_window base b (w := addr - base - windowBase b) (by omega)
  have hsum : windowBase b + (addr - base - windowBase b) = addr - base := by omega
  rw [hsum, Nat.add_sub_cancel' (by omega)] at hl
  exact ⟨_, hl, hsum.symm⟩

/-- Past register space lie the two windows (20_memory.md R60). -/
theorem exists_locate_window {base addr : Nat} (h : base + 0x10000 ≤ addr)
    (h' : addr < base + 0x30000) :
    ∃ b w, locate base addr = some (.window b w) ∧ addr - base = windowBase b + w := by
  have htx : windowBase .tx = 0x10000 := rfl
  have hrx : windowBase .rx = 0x20000 := rfl
  rcases Nat.lt_or_ge addr (base + 0x20000) with hlt | hge
  · exact ⟨.tx, exists_locate_of_window .tx (by omega) (by omega)⟩
  · exact ⟨.rx, exists_locate_of_window .rx (by omega) (by omega)⟩

/-- The windows start at multiples of 4, so an offset is aligned in its window exactly when it is
aligned from `CODEC_BASE` (20_memory.md R60, log 8). -/
theorem windowBase_add_mod_widthBytes (b : Buf) (w : Nat) (width : Width) :
    (windowBase b + w) % widthBytes width = w % widthBytes width := by
  cases b <;> cases width <;> simp only [windowBase, widthBytes] <;> omega

/-! ## Which accesses are allowed -/

/-- Register space admits aligned 32-bit accesses alone (20_memory.md R67). -/
@[simp] theorem accessAllowed_register (off : Nat) (width : Width) :
    accessAllowed (.register off) width = true ↔ width = .word ∧ off % 4 = 0 := by
  simp [accessAllowed]

/-- The windows admit naturally aligned accesses (20_memory.md R67). -/
@[simp] theorem accessAllowed_window (b : Buf) (w : Nat) (width : Width) :
    accessAllowed (.window b w) width = true ↔ w % widthBytes width = 0 := by
  simp [accessAllowed]

/-- Natural alignment, width by width (20_memory.md R67). -/
theorem mod_widthBytes_eq_zero_iff (n : Nat) (width : Width) :
    n % widthBytes width = 0
      ↔ width = .byte ∨ width = .half ∧ n % 2 = 0 ∨ width = .word ∧ n % 4 = 0 := by
  cases width <;> simp [widthBytes, Nat.mod_one]

/-! ## What an access answers -/

section
variable {a : Access} {s : State} {t : Target}

/-- An access outside the address space faults (log 7). -/
theorem performAccess_outside (hl : locate s.params.codecBase a.addr = none) :
    performAccess a s = .fault .outsideAddressSpace := by
  cases a with
  | read | write => simp only [Access.addr] at hl; simp only [performAccess, hl]

/-- An access that R67 does not allow is refused. -/
theorem performAccess_refused (hl : locate s.params.codecBase a.addr = some t)
    (ha : ¬ accessAllowed t a.width = true) : performAccess a s = .refused (accessRefusal t) := by
  cases a with
  | read | write =>
    simp only [Access.addr] at hl
    simp only [performAccess, hl]
    exact if_neg ha

/-- An allowed read delivers the value of its target and changes nothing else (20_memory.md R68). -/
theorem performAccess_read {addr : Nat} {width : Width}
    (hl : locate s.params.codecBase addr = some t) (ha : accessAllowed t width = true) :
    performAccess (.read addr width) s = .next { s with readData := readTarget t width s } := by
  simp only [performAccess, hl]
  exact if_pos ha

/-- An allowed write reaches its target (20_memory.md R68). -/
theorem performAccess_write {addr : Nat} {width : Width} {v : Word}
    (hl : locate s.params.codecBase addr = some t) (ha : accessAllowed t width = true) :
    performAccess (.write addr width v) s = writeTarget t width v s := by
  simp only [performAccess, hl]
  exact if_pos ha

/-- An allowed write answers a next state, also when it issues a command (60_exceptions.md R243). -/
theorem exists_writeTarget_next (t : Target) (width : Width) (v : Word) (s : State) :
    ∃ u, writeTarget t width v s = .next u := by
  cases t with
  | window b w => exact ⟨_, rfl⟩
  | register off =>
    simp only [writeTarget]
    split
    · obtain ⟨u, hu, _⟩ := issueCommand_next v s
      exact ⟨u, hu⟩
    · exact ⟨_, rfl⟩
    · exact ⟨_, rfl⟩

/-- Every allowed access answers a next state (20_memory.md R67). -/
theorem exists_performAccess_next (hl : locate s.params.codecBase a.addr = some t)
    (ha : accessAllowed t a.width = true) : ∃ u, performAccess a s = .next u := by
  cases a with
  | read addr width => exact ⟨_, performAccess_read hl ha⟩
  | write addr width v =>
    obtain ⟨u, hu⟩ := exists_writeTarget_next t width v s
    exact ⟨u, (performAccess_write hl ha).trans hu⟩

end

/-- A step with an access pending performs it on the state without it (20_memory.md R66). -/
theorem step_access {s : State} {a : Access} {rest : List Event} (h : s.pending = .access a :: rest) :
    step s = performAccess a { s with pending := rest } := by
  simp only [step, runPending, h, performEvent]

/-- Settles O11: where the address lies decides, then R67. -/
theorem accessStopsExactlyWhenForbidden : Obligations.AccessStopsExactlyWhenForbidden := by
  intro s a addr width rest haccess h
  have hshape : a.addr = addr ∧ a.width = width := by
    rcases haccess with rfl | ⟨v, rfl⟩ <;> exact ⟨rfl, rfl⟩
  obtain ⟨rfl, rfl⟩ := hshape
  rw [step_access h]
  refine ⟨fun hout => ?_, fun hlo hhi hbad => ?_, fun hlo hhi hword hal => ?_,
    fun hlo hhi hbad => ?_, fun hlo hhi hok => ?_⟩
  · exact performAccess_outside (locate_outside _ _ hout)
  · refine performAccess_refused (s := { s with pending := rest }) (locate_of_register hlo hhi) ?_
    rw [accessAllowed_register]
    tauto
  · exact exists_performAccess_next (locate_of_register hlo hhi)
      ((accessAllowed_register _ _).2 ⟨hword, hal⟩)
  · obtain ⟨b, w, hl, hw⟩ := exists_locate_window hlo hhi
    refine performAccess_refused (s := { s with pending := rest }) hl ?_
    rw [accessAllowed_window, ← windowBase_add_mod_widthBytes b, ← hw, mod_widthBytes_eq_zero_iff]
    rcases hbad with ⟨hwidth, hal⟩ | ⟨hwidth, hal⟩ <;> simp [hwidth, hal]
  · obtain ⟨b, w, hl, hw⟩ := exists_locate_window hlo hhi
    refine exists_performAccess_next hl ?_
    rwa [accessAllowed_window, ← windowBase_add_mod_widthBytes b, ← hw, mod_widthBytes_eq_zero_iff]

/-! ## Safe runs -/

/-- No register write touches the pending events. -/
@[simp] theorem writeReg_pending (r : Reg) (v : Word) (s : State) :
    (writeReg r v s).pending = s.pending := by
  cases r with
  | status => simp only [writeReg]; split <;> rfl
  | _ => rfl

/-- No window write touches the pending events. -/
@[simp] theorem writeWindow_pending (b : Buf) (width : Width) (w : Nat) (v : Word) (s : State) :
    (writeWindow b width w v s).pending = s.pending := by
  have h := congrArg State.pending (writeWindow_registers b width w v s)
  exact h

/-- An access takes no further event (20_memory.md R66, log 1). -/
theorem performAccess_pending {a : Access} {s t : State} (h : performAccess a s = .next t) :
    t.pending = s.pending := by
  rcases performAccess_cases h with ⟨v, rfl⟩ | ⟨v, hc⟩ | ⟨r, v, rfl⟩ | rfl | ⟨b, width, w, v, rfl⟩
  · rfl
  · obtain ⟨u, hu, _, hp⟩ := issueCommand_next v s
    cases hc.symm.trans hu
    exact hp
  · exact writeReg_pending r v s
  · rfl
  · exact writeWindow_pending b width w v s

/-- A step takes the oldest event and no other (log 1). -/
theorem step_pending {s t : State} (h : step s = .next t) : t.pending = s.pending.tail := by
  rcases step_cases h with ⟨hp, rfl⟩ | ⟨a, rest, hp, ha⟩ | ⟨rest, hp, rfl⟩
  · rw [hp, List.tail_nil]
  · rw [hp, performAccess_pending ha, List.tail_cons]
  · rw [hp, List.tail_cons]; rfl

/-- Idle, at a reset and at an access of R67 the machine goes on (60_exceptions.md R240, R243). -/
theorem exists_step_next {s : State} (h : ∀ e ∈ s.pending, eventOk s.params.codecBase e = true) :
    ∃ t, step s = .next t := by
  cases hp : s.pending with
  | nil => exact ⟨s, by simp only [step, runPending, hp]⟩
  | cons e rest =>
    have he := h e (hp ▸ List.mem_cons_self)
    cases e with
    | access a =>
      rw [eventOk_access] at he
      obtain ⟨t, hl, ha⟩ := accessOk_iff.1 he
      rw [step_access hp]
      exact exists_performAccess_next hl ha
    | reset => exact ⟨platformReset { s with pending := rest }, by
        simp only [step, runPending, hp, performEvent]⟩
    | otherHost a => cases he

/-- The events left after a step are still allowed: no step changes the parameters. -/
theorem step_keeps_safe {s t : State} (hs : Safe s) (h : step s = .next t) : Safe t := by
  obtain ⟨hinv, hok⟩ := hs
  refine ⟨stepKeepsInvariant s t hinv h, fun e he => ?_⟩
  rw [step_pending h] at he
  rw [parametersNeverChange s t h]
  exact hok e (List.mem_of_mem_tail he)

/-- Settles O10, by induction on the number of steps: a safe state has a next one, which is safe. -/
theorem safeRunsNeverStop : Obligations.SafeRunsNeverStop := by
  intro k
  induction k with
  | zero => exact fun s hs => ⟨s, rfl, hs⟩
  | succ k ih =>
    intro s hs
    obtain ⟨u, hu⟩ := exists_step_next hs.2
    obtain ⟨t, ht, hsafe⟩ := ih u (step_keeps_safe hs hu)
    refine ⟨t, ?_, hsafe⟩
    rw [← ht]
    simp only [Host.Core.run, Sys2Proof.core, hu]

/-! ## Reads -/

/-- A window byte does not depend on the host's own fields (logs 1 and 14). -/
theorem windowByte_of_host_fields (b : Buf) (s : State) (es : List Event) (d : Word) (w : Nat) :
    windowByte b { s with pending := es, readData := d } w = windowByte b s w := by
  cases b <;> rfl

/-- What a read returns does not depend on the host's own fields (20_memory.md R68). -/
theorem readTarget_of_host_fields (t : Target) (width : Width) (s : State) (es : List Event)
    (d : Word) :
    readTarget t width { s with pending := es, readData := d } = readTarget t width s := by
  cases t with
  | window b w =>
    simp only [readTarget, readWindow, windowByte_of_host_fields]
  | register off =>
    cases hr : regAt s.params.nsock off with
    | none => simp only [readTarget, hr]
    | some r => simp only [readTarget, hr, readReg_of_host_fields]

/-- A step that takes an allowed read (20_memory.md R67, R68). -/
theorem step_read {s : State} {addr : Nat} {width : Width} {t : Target} {rest : List Event}
    (h : s.pending = .access (.read addr width) :: rest)
    (hl : locate s.params.codecBase addr = some t) (ha : accessAllowed t width = true) :
    step s = .next { s with pending := rest, readData := readTarget t width s } := by
  have hstep := (step_access h).trans (performAccess_read hl ha)
  exact hstep.trans (congrArg (fun d => Host.Outcome.next { s with pending := rest, readData := d })
    (readTarget_of_host_fields t width s rest s.readData))

/-- Settles O14: the second read finds its target as the first one left it. -/
theorem readsHaveNoSideEffects : Obligations.ReadsHaveNoSideEffects := by
  intro s addr width rest hok h
  obtain ⟨t, hl, ha⟩ := accessOk_iff.1 hok
  have hfirst := step_read h hl ha
  have hsecond := step_read (s := { s with
    pending := .access (.read addr width) :: rest, readData := readTarget t width s }) rfl hl ha
  have hsame := readTarget_of_host_fields t width s
    (.access (.read addr width) :: rest) (readTarget t width s)
  refine ⟨_, hfirst, ?_⟩
  simp only [Host.Core.run, Sys2Proof.core, hfirst, hsecond, hsame]

end Sys2Proof.Machine
end

section
/-! SUPPORT. The buffer windows: a wide access is one byte access per lane, lowest offset first, each
below `BUF_BYTES` or without effect (20_memory.md R61, R65, log 13); with it the statements about the
windows. -/

namespace Sys2Proof.Machine

open Sys2Proof

/-! ## Reading lanes -/

/-- Below `BUF_BYTES` a window byte is the buffer byte (20_memory.md R61). -/
theorem windowByte_inside {b : Buf} {s : State} {w : Nat} (h : w < s.params.bufBytes) :
    windowByte b s w = bufByte b s w :=
  if_pos h

/-- At and past `BUF_BYTES` a window byte reads 0 (20_memory.md R61). -/
theorem windowByte_past {b : Buf} {s : State} {w : Nat} (h : s.params.bufBytes ≤ w) :
    windowByte b s w = 0#8 :=
  if_neg (by omega)

/-- Past the bits of a value a lane is 0. -/
theorem extractLsb'_past {n k : Nat} (x : BitVec n) (h : n ≤ k) (len : Nat) :
    x.extractLsb' k len = 0#len := by
  apply BitVec.eq_of_getLsbD_eq
  intro i hi
  rw [BitVec.getLsbD_extractLsb', BitVec.getLsbD_of_ge x _ (by omega)]
  simp

/-- Lane `i` of a window read is the window byte at offset `i`, and 0 past the width of the access
(20_memory.md R65, log 14). -/
theorem readWindow_lane (b : Buf) (width : Width) (w : Nat) (s : State) {i : Nat} (hi : i < 4) :
    (readWindow b width w s).extractLsb' (8 * i) 8
      = if i < widthBytes width then windowByte b s (w + i) else 0#8 := by
  cases width with
  | byte =>
    rw [readWindow, BitVec.extractLsb'_setWidth_of_le (by omega)]
    interval_cases i
    · exact BitVec.extractLsb'_eq_self
    all_goals exact extractLsb'_past _ (by decide) 8
  | half =>
    rw [readWindow, BitVec.extractLsb'_setWidth_of_le (by omega)]
    interval_cases i
    · exact BitVec.extractLsb'_append_eq_right
    · exact BitVec.extractLsb'_append_eq_left
    all_goals exact extractLsb'_past _ (by decide) 8
  | word =>
    rw [readWindow]
    interval_cases i
    · exact BitVec.extractLsb'_append_eq_right
    · rw [BitVec.extractLsb'_append_eq_of_le (by decide)]
      exact BitVec.extractLsb'_append_eq_right
    · iterate 2 rw [BitVec.extractLsb'_append_eq_of_le (by decide)]
      exact BitVec.extractLsb'_append_eq_right
    · iterate 2 rw [BitVec.extractLsb'_append_eq_of_le (by decide)]
      exact BitVec.extractLsb'_append_eq_left

/-! ## Writing lanes -/

/-- A window byte write keeps the parameters. -/
@[simp] theorem setWindowByte_params (b : Buf) (w : Nat) (v : Byte) (s : State) :
    (setWindowByte b w v s).params = s.params := by
  have h := congrArg State.params (setWindowByte_registers b w v s)
  exact h

/-- At and past `BUF_BYTES` a window byte write is ignored (20_memory.md R61). -/
theorem setWindowByte_past {b : Buf} {w : Nat} {v : Byte} {s : State} (h : s.params.bufBytes ≤ w) :
    setWindowByte b w v s = s :=
  if_neg (by omega)

/-- A buffer byte just written through its window (20_memory.md R61). -/
theorem bufByte_setWindowByte_self (b : Buf) {w : Nat} (v : Byte) {s : State}
    (h : w < s.params.bufBytes) : bufByte b (setWindowByte b w v s) w = v := by
  rw [setWindowByte, if_pos h]
  cases b with
  | tx => rw [bufByte_tx_writeBuf]; simp
  | rx => rw [bufByte_rx_writeBuf]; simp

/-- A window byte write leaves every other byte of both buffers (20_memory.md R61). -/
theorem bufByte_setWindowByte_of_ne {b c : Buf} {w a : Nat} (h : c ≠ b ∨ a ≠ w) (v : Byte)
    (s : State) : bufByte c (setWindowByte b w v s) a = bufByte c s a := by
  rw [setWindowByte]
  split
  · by_cases hc : c = b
    · subst hc
      have hne : a ≠ w := h.resolve_left (absurd rfl)
      have hout : ¬ (w ≤ a ∧ a < w + [v].length) := by simp only [List.length_singleton]; omega
      cases c with
      | tx => rw [bufByte_tx_writeBuf, if_neg hout]
      | rx => rw [bufByte_rx_writeBuf, if_neg hout]
    · cases b <;> cases c
      exacts [absurd rfl hc, bufByte_rx_writeBuf_tx .., bufByte_tx_writeBuf_rx .., absurd rfl hc]
  · rfl

/-- The lowest `n` lanes of `v` written through a window, lowest offset first (20_memory.md R65). -/
def writeLanes (b : Buf) (w : Nat) (v : Word) (s : State) : Nat → State
  | 0 => s
  | n + 1 => setWindowByte b (w + n) (v.extractLsb' (8 * n) 8) (writeLanes b w v s n)

/-- A window write writes as many lanes as its width has bytes (20_memory.md R65). -/
theorem writeWindow_eq_writeLanes (b : Buf) (width : Width) (w : Nat) (v : Word) (s : State) :
    writeWindow b width w v s = writeLanes b w v s (widthBytes width) := by
  cases width <;> rfl

section
variable (b : Buf) (w : Nat) (v : Word) (s : State)

@[simp] theorem writeLanes_params (n : Nat) : (writeLanes b w v s n).params = s.params := by
  induction n with
  | zero => rfl
  | succ n ih => rw [writeLanes, setWindowByte_params, ih]

/-- Each lane below `BUF_BYTES` reaches its buffer byte, and no later lane overwrites it. -/
theorem bufByte_writeLanes_inside {n i : Nat} (hi : i < n) (h : w + i < s.params.bufBytes) :
    bufByte b (writeLanes b w v s n) (w + i) = v.extractLsb' (8 * i) 8 := by
  induction n with
  | zero => omega
  | succ n ih =>
    rw [writeLanes]
    by_cases hin : i = n
    · subst hin
      exact bufByte_setWindowByte_self b _ (by rwa [writeLanes_params])
    · rw [bufByte_setWindowByte_of_ne (.inr (by omega)), ih (by omega)]

/-- No other byte of either buffer is written, and none at or past `BUF_BYTES`. -/
theorem bufByte_writeLanes_outside {n : Nat} {c : Buf} {a : Nat}
    (h : c ≠ b ∨ a < w ∨ w + n ≤ a ∨ s.params.bufBytes ≤ a) :
    bufByte c (writeLanes b w v s n) a = bufByte c s a := by
  induction n with
  | zero => rfl
  | succ n ih =>
    have hn : bufByte c (writeLanes b w v s n) a = bufByte c s a := ih (h.imp_right fun h => by omega)
    rw [writeLanes]
    by_cases hne : c ≠ b ∨ a ≠ w + n
    · rw [bufByte_setWindowByte_of_ne hne, hn]
    · have hpast : s.params.bufBytes ≤ w + n := by
        obtain ⟨hc, ha⟩ := not_or.1 hne
        simp only [hc, false_or] at h
        omega
      rw [setWindowByte_past (by rwa [writeLanes_params]), hn]

/-- A write from `BUF_BYTES` on is ignored whole (20_memory.md R61). -/
theorem writeLanes_past (h : s.params.bufBytes ≤ w) (n : Nat) : writeLanes b w v s n = s := by
  induction n with
  | zero => rfl
  | succ n ih => rw [writeLanes, ih, setWindowByte_past (by omega)]

end

/-! ## A step with a window access pending -/

section
variable {s : State} {b : Buf} {width : Width} {w : Nat} {v : Word} {rest : List Event}

/-- A step that takes an aligned window read (20_memory.md R61, R67). -/
theorem step_winRead (h : s.pending = winRead s b width w :: rest) (hw : w < 0x10000)
    (hal : w % widthBytes width = 0) :
    step s = .next { s with pending := rest, readData := readWindow b width w s } :=
  step_read h (locate_window _ b hw) ((accessAllowed_window b w width).2 hal)

/-- A step that takes an aligned window write (20_memory.md R61, R67). -/
theorem step_winWrite (h : s.pending = winWrite s b width w v :: rest) (hw : w < 0x10000)
    (hal : w % widthBytes width = 0) :
    step s = .next (writeLanes b w v { s with pending := rest } (widthBytes width)) := by
  have hstep := (step_access h).trans (performAccess_write
    (s := { s with pending := rest }) (locate_window _ b hw) ((accessAllowed_window b w width).2 hal))
  rw [← writeWindow_eq_writeLanes]
  exact hstep

end

/-- Taking an event leaves every buffer byte. -/
theorem bufByte_of_pending (c : Buf) (s : State) (es : List Event) (a : Nat) :
    bufByte c { s with pending := es } a = bufByte c s a :=
  bufByte_congr (by cases c <;> rfl) rfl a

/-- What an aligned window read returns, lane by lane, whatever its width (20_memory.md R61, R65). -/
theorem winRead_lanes {s : State} {b : Buf} {width : Width} {w : Nat} {rest : List Event}
    (h : s.pending = winRead s b width w :: rest) (hw : w < 0x10000)
    (hal : w % widthBytes width = 0) :
    ∃ t, step s = .next t
      ∧ t = { s with pending := rest, readData := t.readData }
      ∧ (∀ i, i < widthBytes width → w + i < s.params.bufBytes →
        t.readData.extractLsb' (8 * i) 8 = bufByte b s (w + i))
      ∧ (∀ i, i < 4 → widthBytes width ≤ i ∨ s.params.bufBytes ≤ w + i →
        t.readData.extractLsb' (8 * i) 8 = 0#8) := by
  refine ⟨_, step_winRead h hw hal, rfl, fun i hi hin => ?_, fun i hi hout => ?_⟩
  · have hi4 : i < 4 := by cases width <;> simp only [widthBytes] at hi <;> omega
    calc (readWindow b width w s).extractLsb' (8 * i) 8
      _ = windowByte b s (w + i) := (readWindow_lane b width w s hi4).trans (if_pos hi)
      _ = bufByte b s (w + i) := windowByte_inside hin
  · refine (readWindow_lane b width w s hi).trans ?_
    split
    · exact windowByte_past (by omega)
    · rfl

/-- What an aligned window write leaves in both buffers, whatever its width
(20_memory.md R61, R65). -/
theorem winWrite_lanes {s : State} {b : Buf} {width : Width} {w : Nat} {v : Word} {rest : List Event}
    (h : s.pending = winWrite s b width w v :: rest) (hw : w < 0x10000)
    (hal : w % widthBytes width = 0) :
    ∃ t, step s = .next t
      ∧ (∀ i, i < widthBytes width → w + i < s.params.bufBytes →
        bufByte b t (w + i) = v.extractLsb' (8 * i) 8)
      ∧ (∀ c a, (c ≠ b ∨ a < w ∨ w + widthBytes width ≤ a ∨ s.params.bufBytes ≤ a) →
        bufByte c t a = bufByte c s a)
      ∧ (s.params.bufBytes ≤ w → t = { s with pending := rest })
      ∧ t = { s with pending := rest, txbuf := t.txbuf, rxbuf := t.rxbuf } := by
  refine ⟨_, step_winWrite h hw hal, fun i hi hin => ?_, fun c a ha => ?_, fun hpast => ?_, ?_⟩
  · exact bufByte_writeLanes_inside b w v { s with pending := rest } hi hin
  · exact (bufByte_writeLanes_outside b w v { s with pending := rest } ha).trans
      (bufByte_of_pending c s rest a)
  · exact writeLanes_past b w v { s with pending := rest } hpast _
  rw [← writeWindow_eq_writeLanes]
  have hframe := writeWindow_registers b width w v { s with pending := rest }
  exact congrArg (fun u : State => { u with
    txbuf := (writeWindow b width w v { s with pending := rest }).txbuf
    rxbuf := (writeWindow b width w v { s with pending := rest }).rxbuf }) hframe

/-- Settles O23: the lanes of a half-word and of a word access. -/
theorem windowLanesAreLittleEndian : Obligations.WindowLanesAreLittleEndian := by
  intro p hp s b w v rest hw hal
  have hbytes : p.2 = widthBytes p.1 := by
    clear hal
    revert p
    decide
  rw [hbytes] at hal ⊢
  exact ⟨fun h => winRead_lanes h hw hal, fun h => winWrite_lanes h hw hal⟩

/-- Settles O22: a byte access has one lane. -/
theorem windowBytesReachTheBuffer : Obligations.WindowBytesReachTheBuffer := by
  intro s b w v rest hw
  have hal : w % widthBytes .byte = 0 := Nat.mod_one w
  refine ⟨fun h => ?_, fun h => ?_⟩
  · exact ⟨_, step_winRead h hw hal, rfl,
      fun hin => congrArg (BitVec.setWidth 32) (windowByte_inside hin),
      fun hpast => congrArg (BitVec.setWidth 32) (windowByte_past hpast)⟩
  · obtain ⟨t, ht, hin, hout, hpast, hframe⟩ := winWrite_lanes h hw hal
    refine ⟨t, ht, hin 0 Nat.one_pos, fun c a ha => hout c a (ha.imp_right fun hne => ?_), hpast,
      hframe⟩
    simp only [widthBytes]
    omega

end Sys2Proof.Machine
end

section
/-! SUPPORT. The bytes that the receive side reads (42_parse_validate.md R180): parsing, admission and
the residuals depend on the received bytes alone, since each field is read only where the tests before
it place it inside the frame. -/

namespace Sys2Proof.Machine

open Sys2Proof

/-! ## Two readers that agree below a length -/

/-- The readers give the same byte at every offset below `len`. -/
def AgreeBelow (len : Nat) (B C : Nat → Byte) : Prop := ∀ a, a < len → B a = C a

section
variable {B C : Nat → Byte} {len : Nat}

theorem AgreeBelow.be16_eq (h : AgreeBelow len B C) {i : Nat} (hi : i + 2 ≤ len) :
    be16 B i = be16 C i := by
  simp only [be16, h i (by omega), h (i + 1) (by omega)]

theorem AgreeBelow.be32_eq (h : AgreeBelow len B C) {i : Nat} (hi : i + 4 ≤ len) :
    be32 B i = be32 C i := by
  rw [be32_eq_append, be32_eq_append, h.be16_eq (by omega), h.be16_eq (by omega)]

theorem AgreeBelow.be48_eq (h : AgreeBelow len B C) {i : Nat} (hi : i + 6 ≤ len) :
    be48 B i = be48 C i := by
  rw [be48_eq_append, be48_eq_append, h.be32_eq (by omega), h.be16_eq (by omega)]

theorem AgreeBelow.readRange_eq (h : AgreeBelow len B C) {off n : Nat} (hn : off + n ≤ len) :
    readRange B off n = readRange C off n :=
  readRange_congr fun a _ ha => h a (by omega)

/-! ## Parsing -/

/-- The Ethernet header is the first 14 bytes (42_parse_validate.md R182). -/
theorem AgreeBelow.parseL2_eq (h : AgreeBelow len B C) (hlen : 14 ≤ len) : parseL2 B = parseL2 C := by
  simp only [parseL2, h.be48_eq (i := 0) (by omega), h.be48_eq (i := 6) (by omega),
    h.be16_eq (i := 12) (by omega)]

/-- The IP header ends at byte 34 (42_parse_validate.md R182, R183). -/
theorem AgreeBelow.parseL3_eq (h : AgreeBelow len B C) (hlen : 34 ≤ len) (p : ParseRecord) :
    parseL3 B p = parseL3 C p := by
  simp only [parseL3, h.be32_eq (i := 14) (by omega), h.be32_eq (i := 18) (by omega),
    h.be32_eq (i := 22) (by omega), h.be32_eq (i := 26) (by omega), h.be32_eq (i := 30) (by omega)]

/-- `udp_ok` needs a received UDP header, whose length field it then reads
(42_parse_validate.md R184). -/
theorem AgreeBelow.udpOk_eq (h : AgreeBelow len B C) (tlen : Nat) :
    udpOk B tlen (decide (14 + tlen ≤ len)) = udpOk C tlen (decide (14 + tlen ≤ len)) := by
  by_cases hin : 28 ≤ tlen ∧ 14 + tlen ≤ len
  · simp only [udpOk, h.be16_eq (i := 38) (by omega)]
  · have hout : (decide (28 ≤ tlen) && decide (14 + tlen ≤ len)) = false := by
      simpa using hin
    simp only [udpOk, hout, Bool.false_and]

/-- The data offset is in byte 46 (42_parse_validate.md R185). -/
theorem AgreeBelow.tcpDoff_eq (h : AgreeBelow len B C) (hlen : 46 < len) : tcpDoff B = tcpDoff C := by
  rw [tcpDoff, tcpDoff, h 46 hlen]

/-- `tcp_ok` needs a received TCP header, whose data offset it then reads
(42_parse_validate.md R185). -/
theorem AgreeBelow.tcpOk_eq (h : AgreeBelow len B C) (tlen : Nat) :
    tcpOk B tlen (decide (14 + tlen ≤ len)) = tcpOk C tlen (decide (14 + tlen ≤ len)) := by
  by_cases hin : 40 ≤ tlen ∧ 14 + tlen ≤ len
  · rw [tcpOk, tcpOk, h.tcpDoff_eq (by omega)]
  · have hout : (decide (40 ≤ tlen) && decide (14 + tlen ≤ len)) = false := by
      simpa using hin
    simp only [tcpOk, hout, Bool.false_and]

/-- The UDP fields end at byte 42 (42_parse_validate.md R184). -/
theorem AgreeBelow.parseUdp_eq (h : AgreeBelow len B C) (hlen : 42 ≤ len) (p : ParseRecord) :
    parseUdp B p = parseUdp C p := by
  simp only [parseUdp, h.be32_eq (i := 34) (by omega), h.be32_eq (i := 38) (by omega),
    h.be16_eq (i := 38) (by omega)]

/-- The TCP fields end at byte 54 (42_parse_validate.md R185). -/
theorem AgreeBelow.parseTcp_eq (h : AgreeBelow len B C) (hlen : 54 ≤ len) (p : ParseRecord) :
    parseTcp B p = parseTcp C p := by
  simp only [parseTcp, h.tcpDoff_eq (by omega), h.be32_eq (i := 34) (by omega),
    h.be32_eq (i := 38) (by omega), h.be32_eq (i := 42) (by omega), h.be32_eq (i := 46) (by omega),
    h.be32_eq (i := 50) (by omega)]

/-- The transport level reads its fields only after its structural test
(42_parse_validate.md R184 to R186). -/
theorem AgreeBelow.parseL4_eq (h : AgreeBelow len B C) (p : ParseRecord) :
    parseL4 B len p = parseL4 C len p := by
  unfold parseL4
  rw [h.udpOk_eq, h.tcpOk_eq]
  split
  · split
    · rename_i hok
      simp only [udpOk, Bool.and_eq_true, decide_eq_true_eq] at hok
      exact h.parseUdp_eq (by omega) p
    · rfl
  · split
    · split
      · rename_i hok
        simp only [tcpOk, Bool.and_eq_true, decide_eq_true_eq] at hok
        exact h.parseTcp_eq (by omega) p
      · rfl
    · rfl

/-- `parse()` reads the received bytes alone (42_parse_validate.md R180, R182). -/
theorem AgreeBelow.parseFrame_eq (h : AgreeBelow len B C) : parseFrame B len = parseFrame C len := by
  unfold parseFrame
  by_cases h14 : len < 14
  · rw [if_pos h14, if_pos h14]
  · rw [if_neg h14, if_neg h14, h.parseL2_eq (by omega)]
    split
    · rfl
    · rename_i h34
      rw [h.parseL3_eq (by omega), h.parseL4_eq]

end

/-! ## What the tests say of the received length -/

/-- Only a frame with the structure of R184 parses as UDP. -/
theorem parseRx_of_udp {s : State} (hp : (parseRx s).udp = true) :
    UdpStructure s ∧ parseRx s = parseUdp (bufByte .rx s) (recordL3 s) := by
  rcases parseRx_cases s with ⟨_, e⟩ | ⟨_, _, e⟩ | ⟨_, _, hu, e⟩ | ⟨_, _, _, e⟩ | ⟨_, _, _, e⟩ |
    ⟨_, _, _, e⟩ | ⟨_, _, e⟩ | ⟨_, _, _, _, e⟩
  case inr.inr.inl => exact ⟨hu, e⟩
  all_goals rw [e] at hp; cases hp

/-- Only a frame with the structure of R185 parses as TCP. -/
theorem parseRx_of_tcp {s : State} (hp : (parseRx s).tcp = true) :
    TcpStructure s ∧ parseRx s = parseTcp (bufByte .rx s) (recordL3 s) := by
  rcases parseRx_cases s with ⟨_, e⟩ | ⟨_, _, e⟩ | ⟨_, _, _, e⟩ | ⟨_, _, _, e⟩ | ⟨_, _, ht, e⟩ |
    ⟨_, _, _, e⟩ | ⟨_, _, e⟩ | ⟨_, _, _, _, e⟩
  case inr.inr.inr.inr.inl => exact ⟨ht, e⟩
  all_goals rw [e] at hp; cases hp

/-- The UDP segment of a frame that parses as UDP was received whole (42_parse_validate.md R184). -/
theorem udp_segment_received {s : State} (hp : (parseRx s).udp = true) :
    34 + ((parseRx s).udpw.extractLsb' 16 16).toNat ≤ s.rxLen.toNat := by
  obtain ⟨⟨hmin, hfits, _, hmax⟩, e⟩ := parseRx_of_udp hp
  have hlen : (parseRx s).udpw.extractLsb' 16 16 = be16 (bufByte .rx s) 38 := by
    rw [e]
    exact be32_high _ 38
  rw [hlen]
  omega

/-- The TCP segment of a frame that parses as TCP was received whole (42_parse_validate.md R185). -/
theorem tcp_segment_received {s : State} (hp : (parseRx s).tcp = true) :
    34 + (recTlen (parseRx s) - 20) ≤ s.rxLen.toNat := by
  obtain ⟨⟨hmin, hfits, _, _⟩, e⟩ := parseRx_of_tcp hp
  have hlen : recTlen (parseRx s) = (be16 (bufByte .rx s) 16).toNat := by
    rw [e]
    exact recTlen_recordL3 s
  rw [hlen]
  omega

/-- An admitted frame has the minimum length (42_parse_validate.md R190). -/
theorem rxLen_of_admission_none {s : State} (h : admission s = .none) : 42 ≤ s.rxLen.toNat := by
  by_contra hlt
  have hshort : admission s = .short := if_pos (Nat.lt_of_not_le hlt)
  cases h.symm.trans hshort

/-! ## Another `RXBUF` with the same received bytes -/

/-- `m` holds the bytes of `RXBUF` below `RX_LEN`. -/
def SameFrame (s : State) (m : Memory) : Prop :=
  AgreeBelow s.rxLen.toNat (bufByte .rx { s with rxbuf := m }) (bufByte .rx s)

section
variable {s : State} {m : Memory}

theorem SameFrame.parseRx_eq (h : SameFrame s m) : parseRx { s with rxbuf := m } = parseRx s :=
  AgreeBelow.parseFrame_eq h

/-- Admission reads the first 34 bytes, after the test for 42 (42_parse_validate.md R190). -/
theorem SameFrame.admission_eq (h : SameFrame s m) :
    admission { s with rxbuf := m } = admission s := by
  unfold admission
  by_cases h42 : s.rxLen.toNat < Config.minFrame
  · exact (if_pos h42).trans (if_pos h42).symm
  · have hlen : 42 ≤ s.rxLen.toNat := Nat.le_of_not_lt h42
    rw [AgreeBelow.be48_eq h (i := 0) (by omega), AgreeBelow.be16_eq h (i := 12) (by omega),
      AgreeBelow.be32_eq h (i := 30) (by omega), AgreeBelow.be16_eq h (i := 16) (by omega)]
    rfl

theorem SameFrame.udpResidual_eq (h : SameFrame s m) (hp : (parseRx s).udp = true) :
    udpResidual (parseRx s) { s with rxbuf := m } = udpResidual (parseRx s) s := by
  unfold udpResidual
  rw [AgreeBelow.readRange_eq h (udp_segment_received hp)]

theorem SameFrame.tcpResidual_eq (h : SameFrame s m) (hp : (parseRx s).tcp = true) :
    tcpResidual (parseRx s) { s with rxbuf := m } = tcpResidual (parseRx s) s := by
  unfold tcpResidual
  rw [AgreeBelow.readRange_eq h (tcp_segment_received hp)]

/-- A failed structural test hides the residual (42_parse_validate.md R192, R193). -/
theorem verifyResult_false (res : Half) : verifyResult false res = verifyWord 0#16 false false := rfl

/-- `UDP_VERIFY` reports the residual only of a UDP frame (42_parse_validate.md R192). -/
theorem SameFrame.udpVerify_eq (h : SameFrame s m) :
    verifyResult (parseRx s).udp (udpResidual (parseRx s) { s with rxbuf := m })
      = verifyResult (parseRx s).udp (udpResidual (parseRx s) s) := by
  cases hp : (parseRx s).udp with
  | false => rw [verifyResult_false, verifyResult_false]
  | true => rw [h.udpResidual_eq hp]

/-- `TCP_VERIFY` reports the residual only of a TCP frame (42_parse_validate.md R193). -/
theorem SameFrame.tcpVerify_eq (h : SameFrame s m) :
    verifyResult (parseRx s).tcp (tcpResidual (parseRx s) { s with rxbuf := m })
      = verifyResult (parseRx s).tcp (tcpResidual (parseRx s) s) := by
  cases hp : (parseRx s).tcp with
  | false => rw [verifyResult_false, verifyResult_false]
  | true => rw [h.tcpResidual_eq hp]

theorem SameFrame.ipResidual_eq (h : SameFrame s m) (hlen : 34 ≤ s.rxLen.toNat) :
    ipResidual { s with rxbuf := m } = ipResidual s :=
  congrArg (csumAdd 0#16) (AgreeBelow.readRange_eq h hlen)

/-- The UDP path sums the segment only after the structural test (43_dispatch.md R215). -/
theorem SameFrame.udpPath_eq (h : SameFrame s m) :
    udpPath (parseRx s) { s with rxbuf := m } = udpPath (parseRx s) s := by
  unfold udpPath
  cases hp : (parseRx s).udp with
  | false => rfl
  | true => rw [h.udpResidual_eq hp]; rfl

/-- The TCP path sums the segment only after the structural test (43_dispatch.md R216). -/
theorem SameFrame.tcpPath_eq (h : SameFrame s m) :
    tcpPath (parseRx s) { s with rxbuf := m } = tcpPath (parseRx s) s := by
  unfold tcpPath
  cases hp : (parseRx s).tcp with
  | false => rfl
  | true => rw [h.tcpResidual_eq hp]; rfl

/-- Classification sums the IP header only for an admitted frame (43_dispatch.md R211 to R216). -/
theorem SameFrame.classify_eq (h : SameFrame s m) :
    classify (parseRx s) { s with rxbuf := m } = classify (parseRx s) s := by
  unfold classify demux
  rw [h.admission_eq, h.udpPath_eq, h.tcpPath_eq]
  by_cases hadm : admission s = .none
  · have hlen := rxLen_of_admission_none hadm
    rw [h.ipResidual_eq (by omega)]
  · rw [if_pos (c := admission s ≠ .none) hadm, if_pos (c := admission s ≠ .none) hadm]

end

/-- Settles O41: each of the five commands completes, with a value and fields that only the received
bytes decide. -/
theorem receiveSideIgnoresStaleBytes : Obligations.ReceiveSideIgnoresStaleBytes := by
  intro i hi s m hsame
  have h : SameFrame s m := hsame
  cases i with
  | parse | ipCheck | udpVerify | tcpVerify | dispatch =>
    refine ⟨_, rfl, ?_⟩
    simp only [exec, execParse, execIpCheck, execUdpVerify, execTcpVerify, execDispatch, h.parseRx_eq,
      h.admission_eq, h.udpVerify_eq, h.tcpVerify_eq, h.classify_eq]
    rfl
  | nop | ethAdd | ipAdd | udpAdd | tcpAdd | csum | sockAlloc | sockClear => simp at hi

end Sys2Proof.Machine
end

section
/-! SUPPORT. The decoder and the encoder as inverses of each other (30_encoding.md R91, R92, R99), and
the rows of the opcode table as statements about the fields of a word (R93). -/

namespace Sys2Proof.Machine

open Sys2Proof

/-! ## The decoder by its three answers -/

/-- The words of a command: an assigned opcode, and nothing in the fields it does not use
(30_encoding.md R90). -/
theorem decode_eq_ok_iff (w : Word) (i : Instr) :
    decode w = .ok i ↔
      ∃ op, opcodeField w = opcodeCode op ∧ unusedFieldsZero op w = true ∧ buildInstr op w = i := by
  constructor
  · intro h
    unfold decode at h
    split at h
    · cases h
    · rename_i op hop
      split at h
      · rename_i hz
        exact ⟨op, (opcodeOf_eq_some hop).symm, hz, Except.ok.inj h⟩
      · cases h
  · rintro ⟨op, hop, hz, rfl⟩
    rw [decode_of_opcodeField hop, if_pos hz]

/-- A word without an assigned opcode is illegal (30_encoding.md R90, R94). -/
theorem decode_of_unassigned {w : Word} (h : ∀ op, opcodeField w ≠ opcodeCode op) :
    decode w = .error .illegal := by
  unfold decode
  split
  · rfl
  · rename_i op hop
    exact absurd (opcodeOf_eq_some hop).symm (h op)

/-- A word of an assigned opcode with an unused field set is reserved (30_encoding.md R90, R92). -/
theorem decode_of_unused_field {w : Word} {op : Opcode} (hop : opcodeField w = opcodeCode op)
    (hz : ¬ unusedFieldsZero op w = true) : decode w = .error .reserved := by
  rw [decode_of_opcodeField hop, if_neg hz]

/-! ## From the command to its word and back -/

/-- The encoder sets only the opcode and the fields the command uses (30_encoding.md R92, R99). -/
theorem encodedFields (i : Instr) : Laws.EncodedFields.Statement i := by
  cases i with
  | nop => exact Laws.EncodedFields.nop
  | ethAdd off => exact Laws.EncodedFields.ethAdd off
  | ipAdd off => exact Laws.EncodedFields.ipAdd off
  | udpAdd off => exact Laws.EncodedFields.udpAdd off
  | tcpAdd off => exact Laws.EncodedFields.tcpAdd off
  | csum off buf => exact Laws.EncodedFields.csum off buf
  | parse => exact Laws.EncodedFields.parse
  | ipCheck => exact Laws.EncodedFields.ipCheck
  | udpVerify => exact Laws.EncodedFields.udpVerify
  | tcpVerify => exact Laws.EncodedFields.tcpVerify
  | dispatch => exact Laws.EncodedFields.dispatch
  | sockAlloc => exact Laws.EncodedFields.sockAlloc
  | sockClear slot mode => exact Laws.EncodedFields.sockClear slot mode

/-- An offset that fits `OFF` is read back whole (30_encoding.md R95). -/
theorem toNat_ofNat_of_offFits {off : Nat} (h : offFits off = true) :
    (BitVec.ofNat 16 off).toNat = off :=
  (BitVec.toNat_ofNat ..).trans (Nat.mod_eq_of_lt (of_decide_eq_true h))

/-- A slot that fits `SLOT` is read back whole (30_encoding.md R95). -/
theorem toNat_ofNat_of_slotFits {slot : Nat} (h : slotFits slot = true) :
    (BitVec.ofNat 3 slot).toNat = slot :=
  (BitVec.toNat_ofNat ..).trans (Nat.mod_eq_of_lt (of_decide_eq_true h))

/-- The operands of a well-formed command are read back from its word (30_encoding.md R95, R99). -/
theorem buildInstr_encode {i : Instr} (h : WellFormed i = true) :
    buildInstr (opcodeOfInstr i) (encode i) = i := by
  cases i with
  | nop | parse | ipCheck | udpVerify | tcpVerify | dispatch | sockAlloc => rfl
  | ethAdd off | ipAdd off | udpAdd off | tcpAdd off | csum off buf =>
    simp [opcodeOfInstr, buildInstr, encode, toNat_ofNat_of_offFits h, -BitVec.toNat_ofNat]
  | sockClear slot mode =>
    simp [opcodeOfInstr, buildInstr, encode, toNat_ofNat_of_slotFits h, -BitVec.toNat_ofNat]

theorem decode_encode {i : Instr} (h : WellFormed i = true) : decode (encode i) = .ok i := by
  obtain ⟨hop, _, hz⟩ := encodedFields i
  exact (decode_eq_ok_iff _ _).2 ⟨_, hop, hz, buildInstr_encode h⟩

/-- Settles O1: the word carries the opcode, sets no unused field, and its operands are read back. -/
theorem decodeOfEncodedCommand : Obligations.DecodeOfEncodedCommand :=
  fun _ => decode_encode

/-! ## From the word to its command and back -/

/-- What a field of a word holds fits the field (30_encoding.md R95). -/
theorem wellFormed_buildInstr (op : Opcode) (w : Word) : WellFormed (buildInstr op w) = true := by
  have hoff : offFits (offField w).toNat = true := decide_eq_true (offField w).isLt
  have hslot : slotFits (slotField w).toNat = true := decide_eq_true (slotField w).isLt
  cases op with
  | nop | parse | ipCheck | udpVerify | tcpVerify | dispatch | sockAlloc => rfl
  | ethAdd | ipAdd | udpAdd | tcpAdd | csum => exact hoff
  | sockClear => exact hslot

@[simp] theorem opcodeOfInstr_buildInstr (op : Opcode) (w : Word) :
    opcodeOfInstr (buildInstr op w) = op := by
  cases op <;> rfl

/-- What it means that the unused fields are zero, field by field (30_encoding.md R92). -/
theorem unusedFieldsZero_iff (op : Opcode) (w : Word) :
    unusedFieldsZero op w = true ↔
      rsvField w = 0#3 ∧ (usesOff op = false → offField w = 0#16)
        ∧ (usesBsel op = false → bselField w = 0#1)
        ∧ (usesSlot op = false → modeField w = 0#1)
        ∧ (usesSlot op = false → slotField w = 0#3) := by
  simp only [unusedFieldsZero, Bool.and_eq_true, Bool.or_eq_true, beq_iff_eq, and_assoc,
    Bool.eq_false_iff, ne_eq, or_iff_not_imp_left, imp_and]

/-- Encoding what was decoded packs the fields of the word again: the fields that the command uses as
they were, the others as zero, which they are (30_encoding.md R92, R99). -/
theorem encode_buildInstr {op : Opcode} {w : Word} (hz : unusedFieldsZero op w = true) :
    encode (buildInstr op w)
      = packWord (opcodeCode op) (bselField w) (modeField w) (slotField w) (offField w) := by
  obtain ⟨_, hoff, hbsel, hmode, hslot⟩ := (unusedFieldsZero_iff op w).1 hz
  cases op with
  | nop | parse | ipCheck | udpVerify | tcpVerify | dispatch | sockAlloc =>
    rw [hoff rfl, hbsel rfl, hmode rfl, hslot rfl]; rfl
  | ethAdd | ipAdd | udpAdd | tcpAdd =>
    rw [hbsel rfl, hmode rfl, hslot rfl]
    simp only [buildInstr, encode, BitVec.ofNat_toNat, BitVec.setWidth_eq]
  | csum =>
    rw [hmode rfl, hslot rfl]
    simp only [buildInstr, encode, BitVec.ofNat_toNat, BitVec.setWidth_eq, bufBit_bufOf]
  | sockClear =>
    rw [hoff rfl, hbsel rfl]
    simp only [buildInstr, encode, BitVec.ofNat_toNat, BitVec.setWidth_eq, clearModeBit_clearModeOf]

/-- Settles O2: a legal word has zero wherever its command has no operand, so packing the command's
operands gives every bit of it back. -/
theorem encodeOfDecodedWord : Obligations.EncodeOfDecodedWord := by
  intro w i h
  obtain ⟨op, hop, hz, rfl⟩ := (decode_eq_ok_iff w i).1 h
  obtain ⟨hrsv, _⟩ := (unusedFieldsZero_iff op w).1 hz
  refine ⟨wellFormed_buildInstr op w, ?_⟩
  rw [encode_buildInstr hz, ← hop, packWord_fields w hrsv]

/-! ## Written words -/

/-- A word that a well-formed command encodes to decodes to that command. -/
theorem decode_of_encode_eq {w : Word} {i : Instr} (h : encode i = w) (hi : WellFormed i = true) :
    decode w = .ok i :=
  h ▸ decode_encode hi

/-- Settles O4: each legal word is the encoding of its command; opcode 5 is unassigned, and
`SOCK_CLEAR` does not use `OFF`. -/
theorem writtenWordsDecode : Obligations.WrittenWordsDecode :=
  ⟨decode_of_encode_eq rfl rfl, decode_of_encode_eq rfl rfl, decode_of_encode_eq rfl rfl,
    decode_of_encode_eq rfl rfl, decode_of_encode_eq rfl rfl, decode_of_encode_eq rfl rfl,
    decode_of_encode_eq rfl rfl, decode_of_encode_eq rfl rfl,
    decode_of_unassigned fun op => by cases op <;> decide,
    decode_of_unused_field (op := .sockClear) rfl (by decide)⟩

/-! ## Mask and match -/

/-- A word is its six fields, one after another (30_encoding.md R91). -/
theorem fields_append (w : Word) :
    offField w ++ rsvField w ++ slotField w ++ modeField w ++ bselField w ++ opcodeField w = w := by
  ext i hi
  simp only [opcodeField, bselField, modeField, slotField, offField, rsvField,
    BitVec.getElem_append, BitVec.getElem_extractLsb']
  rw [← BitVec.getLsbD_eq_getElem]
  split_ifs <;> congr 1 <;> omega

/-- Two words are equal when their fields are (30_encoding.md R91). -/
theorem word_eq_iff_fields (w v : Word) :
    w = v ↔ opcodeField w = opcodeField v ∧ rsvField w = rsvField v ∧ offField w = offField v
      ∧ bselField w = bselField v ∧ modeField w = modeField v ∧ slotField w = slotField v := by
  refine ⟨fun h => h ▸ ⟨rfl, rfl, rfl, rfl, rfl, rfl⟩, ?_⟩
  rintro ⟨hop, hrsv, hoff, hbsel, hmode, hslot⟩
  rw [← fields_append w, hop, hrsv, hoff, hbsel, hmode, hslot, fields_append]

/-- The part of a row's mask that covers a field: no bit of a field the command uses, every bit of one
it does not (30_encoding.md R92, R93). -/
def fieldMask (used : Bool) (n : Nat) : BitVec n := if used then 0#n else BitVec.allOnes n

/-- Under its part of the mask a field reads zero exactly when it is used or zero. -/
theorem and_fieldMask_eq_zero_iff {n : Nat} (used : Bool) (x : BitVec n) :
    x &&& fieldMask used n = 0#n ↔ (used = false → x = 0#n) := by
  cases used <;> simp [fieldMask]

/-- `r` is the row that 30_encoding.md R92 gives its opcode: the code and the match are the opcode with
every other field zero, and the mask covers the opcode, `RSV` and the unused fields. -/
def TableRow.Regular (r : TableRow) : Prop :=
  r.code = (opcodeCode r.op).setWidth 32
    ∧ r.matchBits = packWord (opcodeCode r.op) 0#1 0#1 0#3 0#16
    ∧ opcodeField r.mask = BitVec.allOnes 8 ∧ rsvField r.mask = BitVec.allOnes 3
    ∧ offField r.mask = fieldMask (usesOff r.op) 16 ∧ bselField r.mask = fieldMask (usesBsel r.op) 1
    ∧ modeField r.mask = fieldMask (usesSlot r.op) 1 ∧ slotField r.mask = fieldMask (usesSlot r.op) 3

/-- The thirteen printed rows of 30_encoding.md R93 follow from the field use of R92. -/
theorem regular_of_mem_specRows : ∀ r ∈ specRows, r.Regular := by
  unfold TableRow.Regular
  decide

/-- Every assigned opcode has a row (30_encoding.md R93). -/
theorem exists_row (op : Opcode) : ∃ r ∈ specRows, r.op = op := by
  cases op <;> decide

/-- A mask acts on each field by its own part (30_encoding.md R91). -/
theorem and_eq_iff_fields (w m v : Word) :
    w &&& m = v ↔ opcodeField w &&& opcodeField m = opcodeField v
      ∧ rsvField w &&& rsvField m = rsvField v ∧ offField w &&& offField m = offField v
      ∧ bselField w &&& bselField m = bselField v ∧ modeField w &&& modeField m = modeField v
      ∧ slotField w &&& slotField m = slotField v := by
  rw [word_eq_iff_fields]
  simp only [opcodeField, rsvField, offField, bselField, modeField, slotField,
    BitVec.extractLsb'_and]

section
variable {r : TableRow} {w : Word}

/-- A word has the opcode of a row exactly when its `OPCODE` field holds it (30_encoding.md R91). -/
theorem TableRow.Regular.hasOpcode_iff (h : r.Regular) :
    r.hasOpcode w = true ↔ opcodeField w = opcodeCode r.op := by
  obtain ⟨hcode, _⟩ := h
  rw [TableRow.hasOpcode, beq_iff_eq, hcode, and_255_eq_opcodeField]
  exact ⟨fun e => by simpa using congrArg (BitVec.setWidth 8) e, fun e => e ▸ rfl⟩

/-- A word matches a row exactly when it has the row's opcode and nothing in the fields which that
opcode does not use (30_encoding.md R92, R93). -/
theorem TableRow.Regular.hits_iff (h : r.Regular) :
    r.hits w = true ↔ opcodeField w = opcodeCode r.op ∧ unusedFieldsZero r.op w = true := by
  obtain ⟨_, hmatch, hop, hrsv, hoff, hbsel, hmode, hslot⟩ := h
  rw [TableRow.hits, beq_iff_eq, hmatch, and_eq_iff_fields, unusedFieldsZero_iff, hop, hrsv, hoff,
    hbsel, hmode, hslot]
  simp only [opcodeField_packWord, rsvField_packWord, offField_packWord, bselField_packWord,
    modeField_packWord, slotField_packWord, BitVec.and_allOnes, and_fieldMask_eq_zero_iff]

/-- Clause one of R93: the words of a row are those that decode to its command. -/
theorem TableRow.Regular.hits_iff_decode (h : r.Regular) :
    r.hits w = true ↔ ∃ i, decode w = .ok i ∧ opcodeOfInstr i = r.op := by
  rw [h.hits_iff]
  constructor
  · rintro ⟨hop, hz⟩
    exact ⟨_, (decode_eq_ok_iff _ _).2 ⟨r.op, hop, hz, rfl⟩, opcodeOfInstr_buildInstr _ _⟩
  · rintro ⟨i, hi, hr⟩
    obtain ⟨op, hop, hz, rfl⟩ := (decode_eq_ok_iff _ _).1 hi
    rw [opcodeOfInstr_buildInstr] at hr
    exact hr ▸ ⟨hop, hz⟩

theorem TableRow.Regular.hasOpcode_of_hits (h : r.Regular) (hw : r.hits w = true) :
    r.hasOpcode w = true :=
  h.hasOpcode_iff.2 (h.hits_iff.1 hw).1

end

/-- Clause two of R93: a word that matches a row has its opcode, and no two rows share one. -/
theorem length_filter_hits_le_one (w : Word) :
    (specRows.filter (fun r => r.hits w)).length ≤ 1 := by
  have hnodup : (specRows.map TableRow.code).Nodup := by decide
  calc (specRows.filter (fun r => r.hits w)).length
      = specRows.countP (fun r => r.hits w) := List.countP_eq_length_filter.symm
    _ ≤ specRows.countP (fun r => r.code == w &&& 0xFF#32) :=
        List.countP_mono_left fun r hr hw => by
          rw [BEq.comm]
          exact (regular_of_mem_specRows r hr).hasOpcode_of_hits hw
    _ = (specRows.map TableRow.code).count (w &&& 0xFF#32) := by
        rw [List.count_eq_countP, List.countP_map]; rfl
    _ ≤ 1 := List.nodup_iff_count_le_one.1 hnodup _

/-- Clause three of R93: a word with an assigned opcode that matches no row has an unused field set. -/
theorem decode_of_no_hit {w : Word} (hits : specRows.any (fun r => r.hits w) = false)
    (hop : specRows.any (fun r => r.hasOpcode w) = true) : decode w = .error .reserved := by
  obtain ⟨r, hr, hrw⟩ := List.any_eq_true.1 hop
  have hreg := regular_of_mem_specRows r hr
  have hcode := hreg.hasOpcode_iff.1 hrw
  refine decode_of_unused_field hcode fun hz => ?_
  exact List.any_eq_false.1 hits r hr (hreg.hits_iff.2 ⟨hcode, hz⟩)

/-- Clause four of R93: an opcode of no row is unassigned. -/
theorem decode_of_no_opcode {w : Word} (h : specRows.any (fun r => r.hasOpcode w) = false) :
    decode w = .error .illegal := by
  refine decode_of_unassigned fun op hop => ?_
  obtain ⟨r, hr, rfl⟩ := exists_row op
  exact List.any_eq_false.1 h r hr ((regular_of_mem_specRows r hr).hasOpcode_iff.2 hop)

/-- Settles O3: its four clauses, each from the rows being those that R92 gives. -/
theorem commandRowsByMaskAndMatch : Obligations.CommandRowsByMaskAndMatch := fun w =>
  ⟨fun r hr => (regular_of_mem_specRows r hr).hits_iff_decode, length_filter_hits_le_one w,
    fun s hits hop => issueCommand_of_error (decode_of_no_hit hits hop) s,
    fun s h => issueCommand_of_error (decode_of_no_opcode h) s⟩

end Sys2Proof.Machine
end

section
/-! SUPPORT. The running sum over a byte list (40_checksum.md R130, R135): it is a fold of
`oc_add` over the words, it can stop and go on at an even offset, and a generated field at an even
offset completes it to 0xFFFF. -/

namespace Sys2Proof.Machine

open Sys2Proof

/-! ## Words and bytes -/

/-- Two bytes joined, as a number (00_scope.md R11). -/
theorem joinBytes_toNat (b c : Byte) : (b ++ c).toNat = 256 * b.toNat + c.toNat := by
  rw [BitVec.toNat_append, ← Nat.shiftLeft_add_eq_or_of_lt c.isLt, Nat.shiftLeft_eq, Nat.mul_comm]

theorem joinBytes_eq_zero_iff (b c : Byte) : b ++ c = 0#16 ↔ b = 0#8 ∧ c = 0#8 := by
  simp only [← BitVec.toNat_inj, joinBytes_toNat, BitVec.toNat_ofNat]
  omega

/-- A running sum takes a big-endian word in one `oc_add` (R130). -/
@[simp] theorem csumAdd_putBe16 (init w : Half) (bs : List Byte) :
    csumAdd init (putBe16 w ++ bs) = csumAdd (ocAdd init w) bs := by
  rw [putBe16, List.cons_append, List.cons_append, List.nil_append, csumAdd, join16]

/-- A running sum over whole words and then a tail folds `oc_add` over the words (R130). -/
theorem csumAdd_words_append (ws : List Half) (init : Half) (tail : List Byte) :
    csumAdd init (ws.flatMap putBe16 ++ tail) = csumAdd (ws.foldl ocAdd init) tail := by
  induction ws generalizing init with
  | nil => rfl
  | cons w ws ih =>
    rw [List.flatMap_cons, List.append_assoc, csumAdd_putBe16, ih, List.foldl_cons]

theorem csumAdd_words (ws : List Half) (init : Half) :
    csumAdd init (ws.flatMap putBe16) = ws.foldl ocAdd init := by
  simpa [csumAdd] using csumAdd_words_append ws init []

/-! ## The ordinary sum modulo 0xFFFF -/

/-- The end-around carry takes away 0xFFFF or nothing (R130). -/
theorem ocAdd_modEq (s w : Half) : (ocAdd s w).toNat ≡ s.toNat + w.toNat [MOD 65535] := by
  rw [ocAdd_toNat, Nat.ModEq]
  split_ifs <;> omega

theorem foldl_ocAdd_modEq (ws : List Half) (init : Half) :
    (ws.foldl ocAdd init).toNat ≡ init.toNat + (ws.map BitVec.toNat).sum [MOD 65535] := by
  induction ws generalizing init with
  | nil => rfl
  | cons w ws ih =>
    calc (ws.foldl ocAdd (ocAdd init w)).toNat
        ≡ (ocAdd init w).toNat + (ws.map BitVec.toNat).sum [MOD 65535] := ih _
      _ ≡ init.toNat + w.toNat + (ws.map BitVec.toNat).sum [MOD 65535] :=
        (ocAdd_modEq init w).add_right _
      _ = init.toNat + ((w :: ws).map BitVec.toNat).sum := by
        rw [List.map_cons, List.sum_cons, Nat.add_assoc]

/-- Settles O24: each `oc_add` keeps the ordinary sum modulo 0xFFFF, and the last byte of an odd
sequence is one more `oc_add`, of 256 times the byte. -/
theorem sumIsOrdinarySumModulo65535 : Obligations.SumIsOrdinarySumModulo65535 := by
  refine fun ws init => ⟨?_, fun last => ?_⟩
  · rw [csumAdd_words]
    exact foldl_ocAdd_modEq ws init
  · rw [csumAdd_words_append, csumAdd]
    calc (ocAdd (ws.foldl ocAdd init) (last ++ 0x00#8)).toNat
        ≡ (ws.foldl ocAdd init).toNat + (last ++ 0x00#8).toNat [MOD 65535] := ocAdd_modEq _ _
      _ ≡ init.toNat + (ws.map BitVec.toNat).sum + (last ++ 0x00#8).toNat [MOD 65535] :=
        (foldl_ocAdd_modEq ws init).add_right _
      _ = init.toNat + (ws.map BitVec.toNat).sum + 256 * last.toNat := by
        rw [joinBytes_toNat]; rfl

/-! ## Zero, two pieces, and another order -/

/-- Settles O25: `oc_add` is zero only from zeros, and so is a word of two bytes. -/
theorem zeroSumOnlyFromZeros : Obligations.ZeroSumOnlyFromZeros := by
  intro init bs
  induction init, bs using csumAdd.induct with
  | case1 init => simp [csumAdd]
  | case2 init b => simp [csumAdd, ocAdd_eq_zero, joinBytes_eq_zero_iff]
  | case3 init b c rest ih =>
    simp [csumAdd, ih, ocAdd_eq_zero, joinBytes_eq_zero_iff, and_assoc]

/-- A running sum can stop and go on at an even offset, where no word straddles (R135 item 5). -/
theorem csumAdd_append (init : Half) (xs ys : List Byte) (h : xs.length % 2 = 0) :
    csumAdd init (xs ++ ys) = csumAdd (csumAdd init xs) ys := by
  induction init, xs using csumAdd.induct with
  | case1 init => rfl
  | case2 init b => simp at h
  | case3 init b c rest ih =>
    simp only [List.length_cons] at h
    exact ih (by omega)

/-- Settles O26: no word straddles the two pieces. -/
theorem evenPiecesChain : Obligations.EvenPiecesChain :=
  fun init xs ys h => (csumAdd_append init xs ys h).symm

/-- Settles O27: over whole words the sum is a fold of `oc_add`, whose summands commute. -/
theorem wordOrderDoesNotMatter : Obligations.WordOrderDoesNotMatter := by
  intro init ws vs h
  rw [csumAdd_words, csumAdd_words]
  exact h.foldl_eq' (fun v _ w _ i => ocAdd_right_comm i v w) init

/-! ## A generated field -/

/-- Bytes with a 16-bit field at offset `k` and nothing else that depends on it: what a checksum field
is embedded in (R131). -/
def EmbedsFieldAt (k : Nat) (bytes : Half → List Byte) : Prop :=
  ∃ pre post : List Byte, pre.length = k ∧ ∀ f, bytes f = pre ++ putBe16 f ++ post

section
variable {k : Nat} {bytes : Half → List Byte}

/-- More bytes after the field. -/
theorem EmbedsFieldAt.append (h : EmbedsFieldAt k bytes) (tail : List Byte) :
    EmbedsFieldAt k fun f => bytes f ++ tail := by
  obtain ⟨pre, post, hpre, hbytes⟩ := h
  exact ⟨pre, post ++ tail, hpre, fun f => by simp only [hbytes, List.append_assoc]⟩

theorem EmbedsFieldAt.length_eq (h : EmbedsFieldAt k bytes) (f : Half) :
    (bytes f).length = (bytes 0#16).length := by
  obtain ⟨pre, post, _, hbytes⟩ := h
  simp [hbytes]

/-- A field at an even offset adds itself to the sum with the field zero. -/
theorem EmbedsFieldAt.csumAdd_eq (h : EmbedsFieldAt k bytes) (hk : k % 2 = 0) (init f : Half) :
    csumAdd init (bytes f) = ocAdd (csumAdd init (bytes 0#16)) f := by
  obtain ⟨pre, post, rfl, hbytes⟩ := h
  simp only [hbytes, List.append_assoc, csumAdd_append _ _ _ hk, csumAdd_putBe16, csumAdd_ocAdd,
    ocAdd_zero]

/-- The field generated over the bytes with the field zero completes the sum to 0xFFFF
(R131, R135 item 3). -/
theorem EmbedsFieldAt.csumAdd_checksumField (h : EmbedsFieldAt k bytes) (hk : k % 2 = 0)
    (init : Half) :
    csumAdd init (bytes (checksumField (csumAdd init (bytes 0#16)))) = 0xFFFF#16 := by
  rw [h.csumAdd_eq hk]
  exact ocAdd_complement _

/-- The same with a pseudo-header before the bytes, which holds the same length whatever the field is
(R132, R135 item 3). -/
theorem EmbedsFieldAt.l4sum_checksumField (h : EmbedsFieldAt k bytes) (hk : k % 2 = 0)
    (sip dip : Word) (proto : Byte) :
    l4sum sip dip proto (bytes (checksumField (l4sum sip dip proto (bytes 0#16)))) = 0xFFFF#16 := by
  unfold l4sum
  rw [h.length_eq (checksumField _)]
  exact h.csumAdd_checksumField hk _

end

/-- Settles O28: the field adds the complement of the sum without it. -/
theorem embeddedFieldVerifies : Obligations.EmbeddedFieldVerifies := fun xs ys hxs =>
  EmbedsFieldAt.csumAdd_checksumField (bytes := fun f => xs ++ putBe16 f ++ ys)
    ⟨xs, ys, rfl, fun _ => rfl⟩ hxs 0#16

end Sys2Proof.Machine
end

section
/-! SUPPORT. `CSUM` (40_checksum.md R134), and the headers of `IP_ADD`, `UDP_ADD` and `TCP_ADD` read back
from `TXBUF` with the checksum field they were given (R131, R132). -/

namespace Sys2Proof.Machine

open Sys2Proof

/-! ## CSUM -/

/-- The words of a row of the opcode table (30_encoding.md R90, R93). -/
theorem rowWords_of_mem_specRows {r : TableRow} (h : r ∈ specRows) :
    RowWords ((opcodeCode r.op).setWidth 32) r.matchBits r.mask (buildInstr r.op) :=
  rowWords_of_hits fun w => by
    rw [← (regular_of_mem_specRows r h).hits_iff, TableRow.hits, beq_iff_eq]

/-- `OFF` as a number is the word shifted right by 16 (30_encoding.md R91). -/
theorem offField_toNat (w : Word) : (offField w).toNat = (w >>> 16).toNat := by
  rw [offField, BitVec.extractLsb'_toNat, BitVec.toNat_ushiftRight, Nat.mod_eq_of_lt]
  have := w.isLt
  omega

/-- `BSEL` selects the buffer by bit 8 of the word (30_encoding.md R91). -/
theorem bufOf_bselField (w : Word) :
    bufOf (bselField w) = if w &&& 0x100#32 = 0#32 then .tx else .rx := by
  have hb : bselField w = BitVec.ofBool (w.getLsbD 8) := by
    ext i hi
    simp [bselField, show i = 0 by omega]
  rw [bufOf, hb, and_bit8]
  cases w.getLsbD 8 <;> rfl

theorem buildInstr_csum (w : Word) :
    buildInstr .csum w
      = .csum (w >>> 16).toNat (if w &&& 0x100#32 = 0#32 then .tx else .rx) := by
  rw [buildInstr, offField_toNat, bufOf_bselField]

theorem execCsum_of_fits {off : Nat} {s : State} (b : Buf)
    (hfit : off + csumLen s ≤ s.params.bufBytes) :
    execCsum off b s = complete
      ((0#16) ++ csumAdd (csumInit s) (readRange (bufByte b s) off (csumLen s))) s := by
  have hwide (x : Half) : x.setWidth 32 = (0#16) ++ x := BitVec.setWidth_eq_append (by decide)
  rw [execCsum, if_pos ((rangeFits_iff _ _ _).2 hfit), hwide]

theorem execCsum_of_past {off : Nat} {s : State} (b : Buf)
    (hpast : s.params.bufBytes < off + csumLen s) : execCsum off b s = raiseError .range s := by
  rw [execCsum, (rangeFits_eq_false _ _ _).2 hpast, if_neg Bool.false_ne_true]

/-- Settles O29: the words are those of the row of `CSUM`, and the two ends are those of its range
test. -/
theorem csumSumsTheRange : Obligations.CsumSumsTheRange := by
  refine ⟨?_, fun s off b => ⟨execCsum_of_fits b, execCsum_of_past b⟩⟩
  rw [← funext buildInstr_csum]
  exact rowWords_of_mem_specRows (r := ⟨.csum, 0x08#32, 0x00000008#32, 0x0000FEFF#32⟩) (by decide)

/-! ## The commands that succeed -/

section
variable {s : State} {off : Nat}

theorem execIpAdd_of_fits (hlen : 20 + ipDlen s ≤ 65535) (hfit : off + 20 ≤ s.params.bufBytes) :
    execIpAdd off s = complete 20#32 (advanceIdent (writeBuf .tx off (ipHeader s) s)) := by
  rw [execIpAdd, if_neg (by omega), if_pos ((rangeFits_iff _ _ _).2 hfit)]

theorem execUdpAdd_of_fits (hlen : 8 + udpDlen s ≤ 65535)
    (hfit : off + 8 + udpDlen s ≤ s.params.bufBytes) :
    execUdpAdd off s = complete 8#32 (writeBuf .tx off (udpHeader off s) s) := by
  rw [execUdpAdd, if_neg (by omega), if_pos ((rangeFits_iff _ _ _).2 (by omega))]

theorem execTcpAdd_of_fits (hlen : tcpHeaderLen s + tcpDlen s ≤ 65535)
    (hfit : off + tcpHeaderLen s + tcpDlen s ≤ s.params.bufBytes) :
    execTcpAdd off s
      = complete (BitVec.ofNat 32 (tcpHeaderLen s)) (writeBuf .tx off (tcpHeader off s) s) := by
  rw [execTcpAdd, if_neg (by omega), if_pos ((rangeFits_iff _ _ _).2 (by omega))]

end

/-! ## What is read back from TXBUF -/

/-- Reading back bytes just written to `TXBUF` and what stood behind them. -/
theorem readRange_tx_writeBuf_add (off : Nat) (bs : List Byte) (s : State) (n : Nat) :
    readRange (bufByte .tx (writeBuf .tx off bs s)) off (bs.length + n)
      = bs ++ readRange (bufByte .tx s) (off + bs.length) n := by
  rw [readRange_add, readRange_tx_writeBuf]
  congr 1
  exact readRange_congr fun a ha _ => bufByte_tx_writeBuf_outside off bs s a (.inr ha)

theorem readRange_writeBuf_ipHeader (off : Nat) (s : State) :
    readRange (bufByte .tx (writeBuf .tx off (ipHeader s) s)) off 20 = ipHeader s :=
  readRange_tx_writeBuf off (ipHeader s) s

theorem readRange_writeBuf_udpHeader (off : Nat) (s : State) :
    readRange (bufByte .tx (writeBuf .tx off (udpHeader off s) s)) off (8 + udpDlen s)
      = udpHeader off s ++ udpPayload off s :=
  readRange_tx_writeBuf_add off (udpHeader off s) s (udpDlen s)

theorem readRange_writeBuf_tcpHeader (off : Nat) (s : State) :
    readRange (bufByte .tx (writeBuf .tx off (tcpHeader off s) s)) off (tcpHeaderLen s + tcpDlen s)
      = tcpHeader off s ++ tcpPayload off s := by
  have h := readRange_tx_writeBuf_add off (tcpHeader off s) s (tcpDlen s)
  rwa [tcpHeader_length] at h

/-! ## The checksum fields -/

/-- The IP checksum field is at offset 10 (30_encoding.md R111). -/
theorem embedsFieldAt_ipHeaderWith (s : State) : EmbedsFieldAt 10 fun f => ipHeaderWith f s :=
  ⟨(ipHeaderWith 0#16 s).take 10, (ipHeaderWith 0#16 s).drop 12, rfl, fun _ => rfl⟩

/-- The UDP checksum field is at offset 6 (30_encoding.md R112). -/
theorem embedsFieldAt_udpHeaderWith (s : State) : EmbedsFieldAt 6 fun f => udpHeaderWith f s :=
  ⟨(udpHeaderWith 0#16 s).take 6, (udpHeaderWith 0#16 s).drop 8, rfl, fun _ => rfl⟩

/-- The TCP checksum field is at offset 16 (30_encoding.md R113). -/
theorem embedsFieldAt_tcpHeaderWith (s : State) : EmbedsFieldAt 16 fun f => tcpHeaderWith f s :=
  ⟨(tcpHeaderWith 0#16 s).take 16, (tcpHeaderWith 0#16 s).drop 18, rfl, fun _ => rfl⟩

/-- Settles O35: what is read back is the header with its generated field, and for UDP and TCP the
payload behind it that the field was generated over. -/
theorem builtChecksumsVerify : Obligations.BuiltChecksumsVerify := by
  refine fun s off => ⟨fun hlen hfit => ⟨_, execIpAdd_of_fits hlen hfit, ?_⟩,
    fun hlen hfit => ⟨_, execUdpAdd_of_fits hlen hfit, ?_⟩,
    fun hlen hfit => ⟨_, execTcpAdd_of_fits hlen hfit, ?_⟩⟩
  · rw [bufByte_completed, bufByte_advanceIdent, readRange_writeBuf_ipHeader]
    exact (embedsFieldAt_ipHeaderWith s).csumAdd_checksumField rfl 0#16
  · rw [bufByte_completed, readRange_writeBuf_udpHeader]
    exact ((embedsFieldAt_udpHeaderWith s).append (udpPayload off s)).l4sum_checksumField rfl _ _ _
  · rw [bufByte_completed, readRange_writeBuf_tcpHeader]
    exact ((embedsFieldAt_tcpHeaderWith s).append (tcpPayload off s)).l4sum_checksumField rfl _ _ _

end Sys2Proof.Machine
end

section
/-! SUPPORT. Header construction (41_construct.md R150 to R154): bytes that stand at an offset of a
reader, their big-endian fields, how each command ends, and the checksum read back from `TXBUF`. -/

namespace Sys2Proof.Machine

open Sys2Proof

/-! ## Bytes at an offset -/

/-- The bytes `bs` stand at `off` of a reader (00_scope.md R11). -/
def BytesAt (B : Nat → Byte) (off : Nat) (bs : List Byte) : Prop := readRange B off bs.length = bs

/-- What is written to `TXBUF` stands there. -/
theorem bytesAt_tx_writeBuf (off : Nat) (bs : List Byte) (s : State) :
    BytesAt (bufByte .tx (writeBuf .tx off bs s)) off bs := readRange_tx_writeBuf off bs s

section
variable {B : Nat → Byte} {off : Nat}

theorem bytesAt_append (xs ys : List Byte) :
    BytesAt B off (xs ++ ys) ↔ BytesAt B off xs ∧ BytesAt B (off + xs.length) ys := by
  rw [BytesAt, List.length_append, readRange_add]
  exact List.append_eq_append_iff_of_size_eq_left (readRange_length B off xs.length)

theorem bytesAt_pair (x y : Byte) : BytesAt B off [x, y] ↔ B off = x ∧ B (off + 1) = y := by
  simp [BytesAt, readRange]

/-- The accessor gives back what the writer put (R11). -/
theorem BytesAt.be16_eq {v : Half} (h : BytesAt B off (putBe16 v)) : be16 B off = v := by
  obtain ⟨h0, h1⟩ := (bytesAt_pair _ _).1 h
  rw [be16, h0, h1, join16]

theorem BytesAt.be32_eq {v : Word} (h : BytesAt B off (putBe32 v)) : be32 B off = v := by
  simp only [BytesAt, putBe32, List.length_cons, List.length_nil, readRange, List.cons.injEq] at h
  obtain ⟨h0, h1, h2, h3, _⟩ := h
  rw [be32, h0, h1, h2, h3, join32]

theorem BytesAt.be48_eq {v : Mac} (h : BytesAt B off (putBe48 v)) : be48 B off = v := by
  simp only [BytesAt, putBe48, List.length_cons, List.length_nil, readRange, List.cons.injEq] at h
  obtain ⟨h0, h1, h2, h3, h4, h5, _⟩ := h
  rw [be48, h0, h1, h2, h3, h4, h5, join48]

/-! ## The fields of each header -/

variable {s : State} {f : Half}

/-- The fields of the Ethernet header (30_encoding.md R110). -/
theorem BytesAt.ethHeader_fields (h : BytesAt B off (ethHeader s)) :
    be48 B off = ethDmac s ∧ be48 B (off + 6) = localMac s ∧ be16 B (off + 12) = ethType s := by
  simp only [ethHeader, bytesAt_append] at h
  obtain ⟨⟨hdst, hsrc⟩, htype⟩ := h
  exact ⟨hdst.be48_eq, hsrc.be48_eq, htype.be16_eq⟩

/-- The fields of the IP header (30_encoding.md R111). -/
theorem BytesAt.ipHeader_fields (h : BytesAt B off (ipHeaderWith f s)) :
    be16 B off = 0x4500#16 ∧ be16 B (off + 2) = BitVec.ofNat 16 (20 + ipDlen s)
      ∧ be16 B (off + 4) = s.ipIdent ∧ be16 B (off + 6) = 0x0000#16
      ∧ B (off + 8) = s.ipTtl ∧ B (off + 9) = ipProto s ∧ be16 B (off + 10) = f
      ∧ be32 B (off + 12) = s.ipAddr ∧ be32 B (off + 16) = argDip s := by
  simp only [ipHeaderWith, bytesAt_append] at h
  obtain ⟨⟨⟨⟨⟨⟨⟨hver, hlen⟩, hident⟩, hfrag⟩, hbytes⟩, hsum⟩, hsip⟩, hdip⟩ := h
  obtain ⟨httl, hproto⟩ := (bytesAt_pair _ _).1 hbytes
  exact ⟨hver.be16_eq (v := 0x4500#16), hlen.be16_eq, hident.be16_eq, hfrag.be16_eq, httl, hproto,
    hsum.be16_eq, hsip.be32_eq, hdip.be32_eq⟩

/-- The fields of the UDP header (30_encoding.md R112). -/
theorem BytesAt.udpHeader_fields (h : BytesAt B off (udpHeaderWith f s)) :
    be16 B off = argSport s ∧ be16 B (off + 2) = argDport s
      ∧ be16 B (off + 4) = BitVec.ofNat 16 (8 + udpDlen s) ∧ be16 B (off + 6) = f := by
  simp only [udpHeaderWith, bytesAt_append] at h
  obtain ⟨⟨⟨hsport, hdport⟩, hlen⟩, hsum⟩ := h
  exact ⟨hsport.be16_eq, hdport.be16_eq, hlen.be16_eq, hsum.be16_eq⟩

/-- The fields of the TCP header, and its option (30_encoding.md R113). -/
theorem BytesAt.tcpHeader_fields (h : BytesAt B off (tcpHeaderWith f s)) :
    be16 B off = argSport s ∧ be16 B (off + 2) = argDport s ∧ be32 B (off + 4) = tcpSeq s
      ∧ be32 B (off + 8) = tcpAck s
      ∧ B (off + 12) = BitVec.ofNat 4 (tcpHeaderLen s / 4) ++ (0#4) ∧ B (off + 13) = tcpFlags s
      ∧ be16 B (off + 14) = tcpWindow s ∧ be16 B (off + 16) = f ∧ be16 B (off + 18) = 0x0000#16
      ∧ BytesAt B (off + 20) (mssOption s) := by
  simp only [tcpHeaderWith, bytesAt_append] at h
  obtain ⟨⟨⟨⟨hfirst, hwin⟩, hsum⟩, hurg⟩, hmss⟩ := h
  -- `simp` stops here: the data-offset byte is two joined halves, of width 4 + 4.
  obtain ⟨hwords, hbytes⟩ := (bytesAt_append _ [_, _]).1 hfirst
  simp only [bytesAt_append] at hwords
  obtain ⟨⟨⟨hsport, hdport⟩, hseq⟩, hack⟩ := hwords
  obtain ⟨hdoff, hflags⟩ := (bytesAt_pair _ _).1 hbytes
  exact ⟨hsport.be16_eq, hdport.be16_eq, hseq.be32_eq, hack.be32_eq, hdoff, hflags, hwin.be16_eq,
    hsum.be16_eq, hurg.be16_eq, hmss⟩

/-- The MSS option (30_encoding.md R114). -/
theorem BytesAt.mssOption_fields (h : BytesAt B off (mssOption s)) (hsyn : tcpSyn s = true) :
    be16 B off = 0x0204#16 ∧ be16 B (off + 2) = s.tcpMss := by
  rw [mssOption, if_pos hsyn, bytesAt_append] at h
  obtain ⟨hkind, hmss⟩ := h
  exact ⟨hkind.be16_eq (v := 0x0204#16), hmss.be16_eq⟩

/-- A length field holds the length when `E_LENGTH` was not raised (41_construct.md R152, R153). -/
theorem toNat_eq_of_eq_ofNat {x : Half} {n : Nat} (h : x = BitVec.ofNat 16 n) (hn : n ≤ 65535) :
    x.toNat = n := by
  rw [h, BitVec.toNat_ofNat, Nat.mod_eq_of_lt (Nat.lt_succ_of_le hn)]

/-! ## The checksum read back -/

/-- The bytes with the field zero, from those that stand in a buffer with another field (R131). -/
theorem EmbedsFieldAt.eq_readRange {k : Nat} {bytes : Half → List Byte} (h : EmbedsFieldAt k bytes)
    (hb : BytesAt B off (bytes f)) :
    bytes 0#16 = readRange B off k ++ [0#8, 0#8]
      ++ readRange B (off + (k + 2)) ((bytes f).length - (k + 2)) := by
  obtain ⟨pre, post, rfl, hbytes⟩ := h
  simp only [hbytes, bytesAt_append] at hb
  obtain ⟨⟨hpre, _⟩, hpost⟩ := hb
  simp only [BytesAt, List.length_append, putBe16_length] at hpre hpost
  simp only [hbytes, List.length_append, putBe16_length, Nat.add_sub_cancel_left, hpre, hpost]
  rfl

end

/-- The pseudo-header has even length, so its sum goes on over the segment (R132, R135 item 5). -/
theorem l4sum_eq_csumAdd (sip dip : Word) (proto : Byte) (seg : List Byte) :
    l4sum sip dip proto seg
      = csumAdd 0#16 (pseudoHeader sip dip proto (BitVec.ofNat 16 seg.length) ++ seg) :=
  (csumAdd_append _ _ _ (by simp [pseudoHeader])).symm

/-! ## The words of the commands with an offset -/

/-- The words of a row whose command has `OFF` for its one operand (30_encoding.md R93, R95). -/
theorem rowWords_of_off {r : TableRow} {command : Nat → Instr} (h : r ∈ specRows)
    (hoff : ∀ w, buildInstr r.op w = command (offField w).toNat) :
    RowWords ((opcodeCode r.op).setWidth 32) r.matchBits r.mask
      (fun w => command (w >>> 16).toNat) := by
  have hbuild : buildInstr r.op = fun w : Word => command (w >>> 16).toNat :=
    funext fun w => by rw [hoff, offField_toNat]
  exact hbuild ▸ rowWords_of_mem_specRows h

/-! ## How each command ends -/

section
variable {s : State} {off : Nat}

theorem execEthAdd_of_fits (hfit : off + 14 ≤ s.params.bufBytes) :
    execEthAdd off s = complete 14#32 (writeBuf .tx off (ethHeader s) s) :=
  if_pos ((rangeFits_iff _ _ _).2 hfit)

theorem execEthAdd_of_past (hpast : s.params.bufBytes < off + 14) :
    execEthAdd off s = raiseError .range s :=
  if_neg (by rw [rangeFits_iff]; omega)

theorem execIpAdd_of_long (hlong : 65535 < 20 + ipDlen s) :
    execIpAdd off s = raiseError .length s := if_pos hlong

theorem execIpAdd_of_past (hlen : 20 + ipDlen s ≤ 65535) (hpast : s.params.bufBytes < off + 20) :
    execIpAdd off s = raiseError .range s := by
  rw [execIpAdd, if_neg (by omega), if_neg (by rw [rangeFits_iff]; omega)]

theorem execUdpAdd_of_long (hlong : 65535 < 8 + udpDlen s) :
    execUdpAdd off s = raiseError .length s := if_pos hlong

theorem execUdpAdd_of_past (hlen : 8 + udpDlen s ≤ 65535)
    (hpast : s.params.bufBytes < off + 8 + udpDlen s) :
    execUdpAdd off s = raiseError .range s := by
  rw [execUdpAdd, if_neg (by omega), if_neg (by rw [rangeFits_iff]; omega)]

theorem execTcpAdd_of_long (hlong : 65535 < tcpHeaderLen s + tcpDlen s) :
    execTcpAdd off s = raiseError .length s := if_pos hlong

theorem execTcpAdd_of_past (hlen : tcpHeaderLen s + tcpDlen s ≤ 65535)
    (hpast : s.params.bufBytes < off + tcpHeaderLen s + tcpDlen s) :
    execTcpAdd off s = raiseError .range s := by
  rw [execTcpAdd, if_neg (by omega), if_neg (by rw [rangeFits_iff]; omega)]

end

/-! ## What a header write leaves unchanged -/

/-- A command that writes bytes to `TXBUF` and succeeds changes `TXBUF`, `RESULT` and `STATUS`
only. -/
theorem completed_writeBuf_tx_frame (v : Word) (off : Nat) (bs : List Byte) (s : State) :
    completed v (writeBuf .tx off bs s)
      = { s with
          txbuf := (completed v (writeBuf .tx off bs s)).txbuf
          result := v
          status := okStatus s } :=
  rfl

/-- With `IP_IDENT` advanced, that changes too (10_state.md R30). -/
theorem completed_advanceIdent_writeBuf_tx_frame (v : Word) (off : Nat) (bs : List Byte)
    (s : State) :
    completed v (advanceIdent (writeBuf .tx off bs s))
      = { s with
          txbuf := (completed v (advanceIdent (writeBuf .tx off bs s))).txbuf
          ipIdent := (completed v (advanceIdent (writeBuf .tx off bs s))).ipIdent
          result := v
          status := okStatus s } :=
  rfl

/-! ## NOP and ETH_ADD -/

/-- Settles O30: the row of a command without fields, and the end of a command that writes
nothing. -/
theorem nopWritesResultAndErrcodeOnly : Obligations.NopWritesResultAndErrcodeOnly :=
  ⟨rowWords_of_no_fields (op := .nop) rfl rfl rfl, fun _ => rfl⟩

/-- Settles O31: the header stands at `OFF`, and its bytes are its three fields. -/
theorem ethAddWritesTheHeader : Obligations.EthAddWritesTheHeader := by
  refine ⟨rowWords_of_off (r := ⟨.ethAdd, 0x01#32, 0x00000001#32, 0x0000FFFF#32⟩) (by decide)
      fun _ => rfl,
    fun s off => ⟨fun hfit => ⟨_, execEthAdd_of_fits hfit, ?_⟩, execEthAdd_of_past⟩⟩
  obtain ⟨hdst, hsrc, htype⟩ := (bytesAt_tx_writeBuf off (ethHeader s) s).ethHeader_fields
  rw [bufByte_completed]
  exact ⟨hdst, hsrc, htype, bufByte_tx_writeBuf_outside off (ethHeader s) s,
    completed_writeBuf_tx_frame 14#32 off (ethHeader s) s⟩

/-! ## IP_ADD -/

/-- The checksum field that stands in the header is generated over the header with the field zero
(41_construct.md R152). -/
theorem BytesAt.ipHeader_checksum {B : Nat → Byte} {off : Nat} {s : State}
    (h : BytesAt B off (ipHeader s)) :
    be16 B (off + 10)
      = ~~~ csumAdd 0#16 (readRange B off 10 ++ [0#8, 0#8] ++ readRange B (off + 12) 8) := by
  obtain ⟨-, -, -, -, -, -, hsum, -⟩ := h.ipHeader_fields
  rw [hsum, checksumField, (embedsFieldAt_ipHeaderWith s).eq_readRange h]
  rfl

/-- Settles O32: the header stands at `OFF` with the identification as it was before the command,
and its bytes are its fields. -/
theorem ipAddWritesTheHeader : Obligations.IpAddWritesTheHeader := by
  refine ⟨rowWords_of_off (r := ⟨.ipAdd, 0x02#32, 0x00000002#32, 0x0000FFFF#32⟩) (by decide)
      fun _ => rfl,
    fun s off => ⟨fun hlen hfit => ⟨_, execIpAdd_of_fits hlen hfit, ?_⟩, execIpAdd_of_long,
      execIpAdd_of_past⟩⟩
  have hbytes := bytesAt_tx_writeBuf off (ipHeader s) s
  obtain ⟨hver, htlen, hident, hfrag, httl, hproto, -, hsip, hdip⟩ := hbytes.ipHeader_fields
  rw [bufByte_completed, bufByte_advanceIdent]
  refine ⟨hver, toNat_eq_of_eq_ofNat htlen hlen, hident, hfrag, httl, hproto,
    hbytes.ipHeader_checksum, hsip, hdip, ?_, bufByte_tx_writeBuf_outside off (ipHeader s) s,
    completed_advanceIdent_writeBuf_tx_frame 20#32 off (ipHeader s) s⟩
  rw [completed_ipIdent, advanceIdent_ipIdent, writeBuf_tx_ipIdent, BitVec.toNat_add]
  rfl

/-! ## UDP_ADD -/

/-- The checksum field that stands in the header is generated over pseudo-header, header with the
field zero, and payload (41_construct.md R153). -/
theorem BytesAt.udpHeader_checksum {B : Nat → Byte} {off : Nat} {s : State}
    (h : BytesAt B off (udpHeader off s)) :
    be16 B (off + 6)
      = ~~~ csumAdd 0#16 (putBe32 s.ipAddr ++ putBe32 s.a0 ++ [0x00#8, 17#8]
          ++ putBe16 (BitVec.ofNat 16 (8 + udpDlen s)) ++ readRange B off 6 ++ [0#8, 0#8]
          ++ udpPayload off s) := by
  obtain ⟨-, -, -, hsum⟩ := h.udpHeader_fields
  have hzero : udpHeaderWith 0#16 s = readRange B off 6 ++ [0#8, 0#8] :=
    ((embedsFieldAt_udpHeaderWith s).eq_readRange h).trans (List.append_nil _)
  have hlen : (udpHeaderWith 0#16 s ++ udpPayload off s).length = 8 + udpDlen s := by
    simp [udpPayload]
  rw [hsum, checksumField, l4sum_eq_csumAdd, hlen, hzero]
  simp only [pseudoHeader, List.append_assoc, Config.protoUdp, argDip]

/-- Settles O33: the header stands at `OFF`, and its bytes are its fields. -/
theorem udpAddWritesTheHeader : Obligations.UdpAddWritesTheHeader := by
  refine ⟨rowWords_of_off (r := ⟨.udpAdd, 0x03#32, 0x00000003#32, 0x0000FFFF#32⟩) (by decide)
      fun _ => rfl, ?_⟩
  rintro s off _ rfl
  refine ⟨fun hlen hfit => ⟨_, execUdpAdd_of_fits hlen hfit, ?_⟩, execUdpAdd_of_long,
    execUdpAdd_of_past⟩
  have hbytes := bytesAt_tx_writeBuf off (udpHeader off s) s
  obtain ⟨hsport, hdport, hulen, -⟩ := hbytes.udpHeader_fields
  rw [bufByte_completed]
  exact ⟨hsport, hdport, toNat_eq_of_eq_ofNat hulen hlen, hbytes.udpHeader_checksum,
    bufByte_tx_writeBuf_outside off (udpHeader off s) s,
    completed_writeBuf_tx_frame 8#32 off (udpHeader off s) s⟩

/-! ## TCP_ADD -/

/-- SYN is bit 1 of `A4` (30_encoding.md R96, R113). -/
theorem tcpSyn_iff (s : State) : tcpSyn s = true ↔ s.a4 &&& 2#32 = 2#32 := by
  have hbit : tcpSyn s = s.a4.getLsbD 1 := by simp [tcpSyn, tcpFlags, lowByte]
  have hand : s.a4 &&& 2#32 = if s.a4.getLsbD 1 then 2#32 else 0#32 := BitVec.and_twoPow s.a4 1
  rw [hbit, hand]
  cases s.a4.getLsbD 1 <;> decide

theorem tcpHeaderLen_eq (s : State) :
    tcpHeaderLen s = if s.a4 &&& 2#32 = 2#32 then 24 else 20 := by
  simp only [tcpHeaderLen, tcpSyn_iff]

theorem tcpHeaderLen_eq_24_iff (s : State) : tcpHeaderLen s = 24 ↔ tcpSyn s = true := by
  simp [tcpHeaderLen]

/-- The data offset in words, in the high half of its byte (30_encoding.md R113). -/
theorem tcpDoffByte_eq (s : State) :
    BitVec.ofNat 4 (tcpHeaderLen s / 4) ++ (0#4)
      = if tcpHeaderLen s = 24 then 0x60#8 else 0x50#8 := by
  unfold tcpHeaderLen
  cases tcpSyn s <;> rfl

/-- The checksum field that stands in the header is generated over pseudo-header, header with the
field zero, and payload (41_construct.md R154). -/
theorem BytesAt.tcpHeader_checksum {B : Nat → Byte} {off : Nat} {s : State}
    (h : BytesAt B off (tcpHeader off s)) :
    be16 B (off + 16)
      = ~~~ csumAdd 0#16 (putBe32 s.ipAddr ++ putBe32 s.a0 ++ [0x00#8, 6#8]
          ++ putBe16 (BitVec.ofNat 16 (tcpHeaderLen s + tcpDlen s)) ++ readRange B off 16
          ++ [0#8, 0#8] ++ readRange B (off + 18) (tcpHeaderLen s - 18) ++ tcpPayload off s) := by
  obtain ⟨-, -, -, -, -, -, -, hsum, -⟩ := h.tcpHeader_fields
  have hzero := (embedsFieldAt_tcpHeaderWith s).eq_readRange h
  have hlen : (tcpHeaderWith 0#16 s ++ tcpPayload off s).length = tcpHeaderLen s + tcpDlen s := by
    simp [tcpPayload]
  rw [tcpHeaderWith_length] at hzero
  rw [hsum, checksumField, l4sum_eq_csumAdd, hlen, hzero]
  simp only [pseudoHeader, List.append_assoc, Config.protoTcp, argDip]

/-- Settles O34: the header stands at `OFF`, its bytes are its fields, and the last four of a
24-byte header are the option. -/
theorem tcpAddWritesTheHeader : Obligations.TcpAddWritesTheHeader := by
  refine ⟨rowWords_of_off (r := ⟨.tcpAdd, 0x04#32, 0x00000004#32, 0x0000FFFF#32⟩) (by decide)
      fun _ => rfl, ?_⟩
  rintro s off h _ rfl hh
  obtain rfl : h = tcpHeaderLen s := hh.trans (tcpHeaderLen_eq s).symm
  refine ⟨fun hlen hfit => ⟨_, execTcpAdd_of_fits hlen hfit, ?_⟩, execTcpAdd_of_long,
    execTcpAdd_of_past⟩
  have hbytes := bytesAt_tx_writeBuf off (tcpHeader off s) s
  obtain ⟨hsport, hdport, hseq, hack, hdoff, hflags, hwin, -, hurg, hmss⟩ := hbytes.tcpHeader_fields
  rw [bufByte_completed]
  refine ⟨hsport, hdport, hseq, hack, hdoff.trans (tcpDoffByte_eq s), hflags, hwin,
    hbytes.tcpHeader_checksum, hurg, fun h24 => ?_, fun a ha => ?_,
    completed_writeBuf_tx_frame _ off (tcpHeader off s) s⟩
  · exact hmss.mssOption_fields ((tcpHeaderLen_eq_24_iff s).1 h24)
  · exact bufByte_tx_writeBuf_outside off (tcpHeader off s) s a (by rwa [tcpHeader_length])

end Sys2Proof.Machine
end

section
/-! SUPPORT. The commands over a received frame (42_parse_validate.md R180 to R194): which levels of the
parse record a frame makes valid and what its fields hold, the reason admission reports, the residual a
verification reports, and the descriptor a delivery records. -/

namespace Sys2Proof.Machine

open Sys2Proof

/-! ## The levels of the parse record -/

/-- A frame that is structurally UDP (42_parse_validate.md R184). -/
def UdpFrame (s : State) : Prop := L3Valid s ∧ bufByte .rx s 23 = 17#8 ∧ UdpStructure s

/-- A frame that is structurally TCP (42_parse_validate.md R185). -/
def TcpFrame (s : State) : Prop := L3Valid s ∧ bufByte .rx s 23 = 6#8 ∧ TcpStructure s

/-- An ICMP frame (42_parse_validate.md R186). -/
def IcmpFrame (s : State) : Prop := L3Valid s ∧ bufByte .rx s 23 = 1#8

@[simp] theorem recordL3_udp (s : State) : (recordL3 s).udp = false := rfl

@[simp] theorem recordL3_tcp (s : State) : (recordL3 s).tcp = false := rfl

@[simp] theorem recordL3_icmp (s : State) : (recordL3 s).icmp = false := rfl

/-- Parsing the transport level keeps the levels and the fields of L2 and L3
(42_parse_validate.md R182). -/
theorem parseL4_frame (B : Nat → Byte) (len : Nat) (p : ParseRecord) :
    parseL4 B len p = { p with
      udp := (parseL4 B len p).udp, tcp := (parseL4 B len p).tcp, icmp := (parseL4 B len p).icmp
      ports := (parseL4 B len p).ports, udpw := (parseL4 B len p).udpw
      tseq := (parseL4 B len p).tseq, tack := (parseL4 B len p).tack
      tw3 := (parseL4 B len p).tw3, tw4 := (parseL4 B len p).tw4
      data := (parseL4 B len p).data } := by
  unfold parseL4
  split_ifs <;> rfl

section
variable {s : State}

/-- L2 is valid exactly for a received Ethernet header (42_parse_validate.md R182). -/
theorem parseRx_l2_iff : (parseRx s).l2 = true ↔ 14 ≤ s.rxLen.toNat := by
  rcases parseFrame_cases (bufByte .rx s) s.rxLen.toNat with ⟨hlt, e⟩ | ⟨hlen, _, e⟩ | ⟨hlen, _, e⟩
  · rw [parseRx, e]
    exact iff_of_false Bool.false_ne_true (by omega)
  · rw [parseRx, e]
    exact iff_of_true rfl hlen
  · rw [parseRx, e, parseL4_frame]
    exact iff_of_true rfl (by omega)

/-- L3 is valid exactly for a received IPv4 header (42_parse_validate.md R182). -/
theorem parseRx_l3_iff : (parseRx s).l3 = true ↔ L3Valid s := by
  rcases parseFrame_cases (bufByte .rx s) s.rxLen.toNat with ⟨hlt, e⟩ | ⟨_, hno, e⟩ | ⟨hlen, htype, e⟩
  · rw [parseRx, e]
    exact iff_of_false Bool.false_ne_true fun ⟨_, _⟩ => by omega
  · rw [parseRx, e]
    exact iff_of_false Bool.false_ne_true fun ⟨_, htype⟩ => hno.elim (· htype) (by omega)
  · rw [parseRx, e, parseL4_frame]
    exact iff_of_true rfl ⟨hlen, htype⟩

/-- The three transport levels, from the answers of `parse()` (42_parse_validate.md R184 to R186). -/
theorem parseRx_transport_iff :
    ((parseRx s).udp = true ↔ UdpFrame s) ∧ ((parseRx s).tcp = true ↔ TcpFrame s)
      ∧ ((parseRx s).icmp = true ↔ IcmpFrame s) := by
  unfold UdpFrame TcpFrame IcmpFrame
  rcases parseRx_cases s with ⟨hlt, e⟩ | ⟨_, hl, e⟩ | ⟨hl, hp, hu, e⟩ | ⟨hl, hp, hu, e⟩ |
    ⟨hl, hp, ht, e⟩ | ⟨hl, hp, ht, e⟩ | ⟨hl, hp, e⟩ | ⟨hl, hudp, htcp, hicmp, e⟩
  · have hl : ¬ L3Valid s := fun ⟨_, _⟩ => by omega
    simp [e, ParseRecord.empty, hl]
  · simp [e, parseL2, ParseRecord.empty, hl]
  · simp [e, parseUdp, hl, hp, hu]
  · simp [e, hp, hu]
  · simp [e, parseTcp, hl, hp, ht]
  · simp [e, hp, ht]
  · simp [e, hl, hp]
  · simp [e, hudp, htcp, hicmp]

theorem parseRx_udp_iff : (parseRx s).udp = true ↔ UdpFrame s := parseRx_transport_iff.1

theorem parseRx_tcp_iff : (parseRx s).tcp = true ↔ TcpFrame s := parseRx_transport_iff.2.1

theorem parseRx_icmp_iff : (parseRx s).icmp = true ↔ IcmpFrame s := parseRx_transport_iff.2.2

/-! ## The fields of the parse record -/

/-- The Ethernet fields (42_parse_validate.md R182). -/
theorem parseRx_l2_fields (h : (parseRx s).l2 = true) :
    (parseRx s).edst = be48 (bufByte .rx s) 0 ∧ (parseRx s).esrc = be48 (bufByte .rx s) 6
      ∧ (parseRx s).etype = be16 (bufByte .rx s) 12 := by
  rcases parseFrame_cases (bufByte .rx s) s.rxLen.toNat with ⟨_, e⟩ | ⟨_, _, e⟩ | ⟨_, _, e⟩ <;>
    rw [parseRx, e] at h ⊢
  · cases h
  · exact ⟨rfl, rfl, rfl⟩
  · rw [parseL4_frame]
    exact ⟨rfl, rfl, rfl⟩

/-- The words of the IP header (42_parse_validate.md R182). -/
theorem parseRx_l3_fields (h : (parseRx s).l3 = true) :
    (parseRx s).ipw0 = be32 (bufByte .rx s) 14 ∧ (parseRx s).ipw1 = be32 (bufByte .rx s) 18
      ∧ (parseRx s).ipw2 = be32 (bufByte .rx s) 22 ∧ (parseRx s).sip = be32 (bufByte .rx s) 26
      ∧ (parseRx s).dip = be32 (bufByte .rx s) 30 := by
  rcases parseFrame_cases (bufByte .rx s) s.rxLen.toNat with ⟨_, e⟩ | ⟨_, _, e⟩ | ⟨_, _, e⟩ <;>
    rw [parseRx, e] at h ⊢
  · cases h
  · cases h
  · rw [parseL4_frame]
    exact ⟨rfl, rfl, rfl, rfl, rfl⟩

/-- The UDP fields; the length of the payload does not wrap (42_parse_validate.md R184). -/
theorem parseRx_udp_fields (h : (parseRx s).udp = true) :
    (parseRx s).ports = be32 (bufByte .rx s) 34 ∧ (parseRx s).udpw = be32 (bufByte .rx s) 38
      ∧ (parseRx s).data = (42#16) ++ BitVec.ofNat 16 ((be16 (bufByte .rx s) 38).toNat - 8) := by
  obtain ⟨⟨_, _, hmin, _⟩, e⟩ := parseRx_of_udp h
  have hlen : be16 (bufByte .rx s) 38 - 8#16
      = BitVec.ofNat 16 ((be16 (bufByte .rx s) 38).toNat - 8) := by
    bv_omega
  rw [e, ← hlen]
  exact ⟨rfl, rfl, rfl⟩

/-- The TCP fields (42_parse_validate.md R185). -/
theorem parseRx_tcp_fields (h : (parseRx s).tcp = true) :
    (parseRx s).ports = be32 (bufByte .rx s) 34 ∧ (parseRx s).tseq = be32 (bufByte .rx s) 38
      ∧ (parseRx s).tack = be32 (bufByte .rx s) 42 ∧ (parseRx s).tw3 = be32 (bufByte .rx s) 46
      ∧ (parseRx s).tw4 = be32 (bufByte .rx s) 50
      ∧ (parseRx s).data = BitVec.ofNat 16 (34 + 4 * frameDoff s)
        ++ BitVec.ofNat 16 ((be16 (bufByte .rx s) 16).toNat - 20 - 4 * frameDoff s) := by
  obtain ⟨-, e⟩ := parseRx_of_tcp h
  rw [e, ← recTlen_recordL3, frameDoff, ← tcpDoff_eq]
  exact ⟨rfl, rfl, rfl, rfl, rfl, rfl⟩

end

/-! ## PARSE -/

/-- `PR_VALID` as a number (10_state.md R35). -/
theorem validWord_toNat (p : ParseRecord) :
    (validWord p).toNat = p.l2.toNat + 2 * p.l3.toNat + 4 * p.udp.toNat + 8 * p.tcp.toNat
      + 16 * p.icmp.toNat := by
  have hbits : ∀ l2 l3 udp tcp icmp : Bool,
      ((0#27) ++ BitVec.ofBool icmp ++ BitVec.ofBool tcp ++ BitVec.ofBool udp ++ BitVec.ofBool l3
        ++ BitVec.ofBool l2).toNat
      = l2.toNat + 2 * l3.toNat + 4 * udp.toNat + 8 * tcp.toNat + 16 * icmp.toNat := by decide
  exact hbits _ _ _ _ _

/-- A half word in a register of its own (10_state.md R41). -/
theorem setWidth_half (x : Half) : x.setWidth 32 = (0#16) ++ x := BitVec.setWidth_eq_append (by decide)

/-- Settles O36: the levels are those of the received frame, and the registers are the fields of the
record. -/
theorem parseFillsTheRegisters : Obligations.ParseFillsTheRegisters := by
  refine ⟨rowWords_of_no_fields (op := .parse) rfl rfl rfl, fun s => ?_⟩
  refine ⟨_, rfl, rfl, validWord_toNat (parseRx s), parseRx_l2_iff, parseRx_l3_iff, parseRx_udp_iff,
    parseRx_tcp_iff, parseRx_icmp_iff, fun h => ?_, parseRx_l3_fields, parseRx_udp_fields,
    parseRx_tcp_fields, recordSound_parseRx s⟩
  obtain ⟨hdst, hsrc, htype⟩ := parseRx_l2_fields h
  simp only [readReg, readPr, completed_pr, hdst, hsrc, htype, be48_high, be48_low, setWidth_half,
    and_self]

/-- Settles O37: both commands leave the record of `parse()`. -/
theorem parseLevelsNestAndExclude : Obligations.ParseLevelsNestAndExclude := by
  intro i hi s
  simp only [List.mem_cons, List.not_mem_nil, or_false] at hi
  rcases hi with rfl | rfl
  · exact ⟨_, rfl, recordSound_parseRx s⟩
  · exact ⟨_, rfl, recordSound_parseRx s⟩

/-! ## IP_CHECK

The answers of `admit_cases` exclude one another, so the tests of R190 decide the reason. -/

section
variable {s : State}

theorem admission_of_short (hlt : s.rxLen.toNat < 42) : admission s = .short := by
  have hcases := admit_cases s
  grind [Admitted]

theorem admission_of_mac (hlen : 42 ≤ s.rxLen.toNat) (hmac : ¬ MacAccepted s) :
    admission s = .mac := by
  have hcases := admit_cases s
  grind [Admitted]

theorem admission_of_etype (hlen : 42 ≤ s.rxLen.toNat) (hmac : MacAccepted s)
    (htype : be16 (bufByte .rx s) 12 ≠ 0x0800#16) : admission s = .etype := by
  have hcases := admit_cases s
  grind [Admitted]

theorem admission_of_ipdst (hlen : 42 ≤ s.rxLen.toNat) (hmac : MacAccepted s)
    (htype : be16 (bufByte .rx s) 12 = 0x0800#16) (hip : ¬ IpAccepted s) :
    admission s = .ipdst := by
  have hcases := admit_cases s
  grind [Admitted]

theorem admission_of_tlen (hlen : 42 ≤ s.rxLen.toNat) (hmac : MacAccepted s)
    (htype : be16 (bufByte .rx s) 12 = 0x0800#16) (hip : IpAccepted s)
    (htlen : s.rxLen.toNat < (be16 (bufByte .rx s) 16).toNat) : admission s = .tlen := by
  have hcases := admit_cases s
  grind [Admitted]

theorem admission_of_admitted (h : Admitted s) : admission s = .none := by
  have hcases := admit_cases s
  grind [Admitted]

end

/-- The state `IP_CHECK` leaves (42_parse_validate.md R190). -/
def ipChecked (s : State) : State :=
  completed (if admission s = .none then 1#32 else 0#32)
    { s with verdict := checkVerdict (admission s) }

theorem exec_ipCheck (s : State) : exec .ipCheck s = .next (ipChecked s) := rfl

/-- `RESULT` and `VERDICT` of `IP_CHECK`, by the reason alone (42_parse_validate.md R190). -/
theorem ipChecked_of_admission {s : State} {r : Reason} (h : admission s = r) :
    (ipChecked s).result = (if r = .none then 1#32 else 0#32)
      ∧ readReg (ipChecked s) .verdict = verdictWord (checkVerdict r) := by
  subst h
  exact ⟨rfl, rfl⟩

/-- Settles O38: each clause is one answer of admission. -/
theorem ipCheckReportsTheFirstFailure : Obligations.IpCheckReportsTheFirstFailure := by
  refine ⟨rowWords_of_no_fields (op := .ipCheck) rfl rfl rfl, fun s => ?_⟩
  exact ⟨_, exec_ipCheck s, rfl,
    fun h => ipChecked_of_admission (admission_of_admitted h),
    fun hlt => ipChecked_of_admission (admission_of_short hlt),
    fun hlen hmac => ipChecked_of_admission (admission_of_mac hlen hmac),
    fun hlen hmac htype => ipChecked_of_admission (admission_of_etype hlen hmac htype),
    fun hlen hmac htype hip => ipChecked_of_admission (admission_of_ipdst hlen hmac htype hip),
    fun hlen hmac htype hip htlen =>
      ipChecked_of_admission (admission_of_tlen hlen hmac htype hip htlen)⟩

/-! ## UDP_VERIFY and TCP_VERIFY -/

/-- The two halves of a word are written one after the other (00_scope.md R11). -/
theorem putBe32_append (x y : Half) : putBe32 (x ++ y) = putBe16 x ++ putBe16 y := by
  have hhigh (k : Nat) (hk : 16 ≤ k) : (x ++ y).extractLsb' k 8 = x.extractLsb' (k - 16) 8 :=
    BitVec.extractLsb'_append_eq_of_le hk
  have hlow (k : Nat) (hk : k + 8 ≤ 16) : (x ++ y).extractLsb' k 8 = y.extractLsb' k 8 :=
    BitVec.extractLsb'_append_eq_of_add_le hk
  rw [putBe32, hhigh 24 (by decide), hhigh 16 (by decide), hlow 8 (by decide), hlow 0 (by decide)]
  rfl

/-- A word read big-endian and written again is its four bytes (00_scope.md R11). -/
theorem putBe32_be32 (B : Nat → Byte) (i : Nat) : putBe32 (be32 B i) = readRange B i 4 := by
  rw [be32_eq_append, putBe32_append, putBe16_be16, putBe16_be16]
  rfl

/-- The sum over the pseudo-header of the received addresses and the received segment is the one-pass
sum of R132. -/
theorem l4sum_received (proto : Byte) (n : Nat) (s : State) :
    l4sum (be32 (bufByte .rx s) 26) (be32 (bufByte .rx s) 30) proto (readRange (bufByte .rx s) 34 n)
      = segmentSum proto n s := by
  rw [l4sum_eq_csumAdd, readRange_length, pseudoHeader, putBe32_be32, putBe32_be32, ← readRange_add]
  rfl

section
variable {s : State}

/-- The residual of `UDP_VERIFY` covers `ulen` bytes (42_parse_validate.md R192). -/
theorem udpResidual_parseRx (h : UdpFrame s) :
    udpResidual (parseRx s) s = segmentSum 17#8 (be16 (bufByte .rx s) 38).toNat s := by
  obtain ⟨-, -, -, hsip, hdip⟩ := parseRx_l3_fields (parseRx_l3_iff.2 h.1)
  obtain ⟨-, hlen, -⟩ := parseRx_udp_fields (parseRx_udp_iff.2 h)
  rw [udpResidual, hsip, hdip, hlen, be32_high]
  exact l4sum_received _ _ s

/-- The residual of `TCP_VERIFY` covers `tlen − 20` bytes (42_parse_validate.md R193). -/
theorem tcpResidual_parseRx (h : TcpFrame s) :
    tcpResidual (parseRx s) s = segmentSum 6#8 ((be16 (bufByte .rx s) 16).toNat - 20) s := by
  obtain ⟨hw0, -, -, hsip, hdip⟩ := parseRx_l3_fields (parseRx_l3_iff.2 h.1)
  rw [tcpResidual, recTlen, hsip, hdip, hw0, be32_low]
  exact l4sum_received _ _ s

end

/-- The low half of a verification's `RESULT` (30_encoding.md R97). -/
theorem verifyWord_eq_append (r : Half) (st ok : Bool) :
    verifyWord r st ok = r ++ ((0#14) ++ (BitVec.ofBool st ++ BitVec.ofBool ok)) := by
  rw [verifyWord, BitVec.append_assoc, BitVec.append_assoc]
  rfl

theorem verifyResult_of_valid {r : Half} (h : ValidResidual r) :
    verifyResult true r = r ++ 0x0003#16 := by
  rw [verifyResult, if_pos rfl, (residualValid_iff r).2 h]
  exact verifyWord_eq_append r true true

theorem verifyResult_of_invalid {r : Half} (h : ¬ ValidResidual r) :
    verifyResult true r = r ++ 0x0002#16 := by
  rw [verifyResult, if_pos rfl, Bool.eq_false_of_not_eq_true (mt (residualValid_iff r).1 h)]
  exact verifyWord_eq_append r true false

/-- `RESULT` of a verification: 0 when the structural test failed, else the residual with its two
flags (42_parse_validate.md R192, R193, 30_encoding.md R97). -/
theorem verifyResult_spec {st : Bool} {frame : Prop} {res r : Half} (hst : st = true ↔ frame)
    (hres : frame → res = r) :
    (¬ frame → verifyResult st res = 0#32)
      ∧ (frame → (ValidResidual r → verifyResult st res = r ++ 0x0003#16)
        ∧ (¬ ValidResidual r → verifyResult st res = r ++ 0x0002#16)) := by
  refine ⟨fun hno => ?_, fun h => ?_⟩
  · rw [Bool.eq_false_of_not_eq_true (mt hst.1 hno), verifyResult_false]
    rfl
  · rw [hst.2 h, hres h]
    exact ⟨verifyResult_of_valid, verifyResult_of_invalid⟩

/-- Settles O39: the structural test is the UDP level of the record. -/
theorem udpVerifyReportsTheResidual : Obligations.UdpVerifyReportsTheResidual := by
  refine ⟨rowWords_of_no_fields (op := .udpVerify) rfl rfl rfl, ?_⟩
  rintro s _ rfl
  obtain ⟨hno, hframe⟩ := verifyResult_spec (parseRx_udp_iff (s := s)) udpResidual_parseRx
  exact ⟨_, rfl, rfl, hno, fun hl hp hu => hframe ⟨hl, hp, hu⟩⟩

/-- Settles O40: the structural test is the TCP level of the record. -/
theorem tcpVerifyReportsTheResidual : Obligations.TcpVerifyReportsTheResidual := by
  refine ⟨rowWords_of_no_fields (op := .tcpVerify) rfl rfl rfl, ?_⟩
  rintro s _ rfl
  obtain ⟨hno, hframe⟩ := verifyResult_spec (parseRx_tcp_iff (s := s)) tcpResidual_parseRx
  exact ⟨_, rfl, rfl, hno, fun hl hp ht => hframe ⟨hl, hp, ht⟩⟩

/-! ## Delivery -/

/-- The descriptor in `PR_DATA` lies inside the received bytes (42_parse_validate.md R194). -/
theorem parseRx_data_received {s : State} (h : (parseRx s).udp = true ∨ (parseRx s).tcp = true) :
    42 ≤ (highHalf (parseRx s).data).toNat
      ∧ (highHalf (parseRx s).data).toNat + (lowHalf (parseRx s).data).toNat ≤ s.rxLen.toNat := by
  unfold highHalf lowHalf
  rcases h with h | h
  · obtain ⟨⟨hmin, hfits, humin, humax⟩, -⟩ := parseRx_of_udp h
    obtain ⟨-, -, hdata⟩ := parseRx_udp_fields h
    rw [hdata, BitVec.extractLsb'_append_eq_left, BitVec.extractLsb'_append_eq_right,
      BitVec.toNat_ofNat, BitVec.toNat_ofNat]
    omega
  · obtain ⟨⟨hmin, hfits, hdmin, hdmax⟩, -⟩ := parseRx_of_tcp h
    obtain ⟨-, -, -, -, -, hdata⟩ := parseRx_tcp_fields h
    rw [hdata, BitVec.extractLsb'_append_eq_left, BitVec.extractLsb'_append_eq_right,
      BitVec.toNat_ofNat, BitVec.toNat_ofNat]
    omega

/-- A delivery replaces one entry of the table by one with the descriptor of the record
(43_dispatch.md R215, R216). -/
theorem classify_describes {p : ParseRecord} {s : State}
    (hc : (classify p s).1.cls = .udp ∨ (classify p s).1.cls = .tcp) :
    ∃ c k e, (p.udp = true ∨ p.tcp = true) ∧ k < s.socks.length
      ∧ classify p s = (toSlot c k, s.socks.set k (describe p e)) := by
  rcases classify_cases p s with ⟨c, r, e, hu, ht, -⟩ | ⟨k, hp, hk, e⟩ | ⟨k, hp, hk, e⟩
  · rw [e] at hc
    exact (hc.elim hu ht).elim
  · exact ⟨.udp, k, _, .inl hp, (List.findIdx?_eq_some_iff_getElem.1 hk).1, e⟩
  · exact ⟨.tcp, k, _, .inr hp, tcpHit_lt hk, e⟩

/-- Settles O47: the entry that the slot names holds the descriptor of the record. -/
theorem deliveredPayloadInsideFrame : Obligations.DeliveredPayloadInsideFrame := by
  refine fun s hs => ⟨_, rfl, fun hc => ?_⟩
  obtain ⟨c, k, e, hp, hk, hcl⟩ := classify_describes hc
  have hlen := hs.socks_length_le
  have hslot : (classify (parseRx s) s).1.slot.toNat = k := by
    rw [hcl, toSlot_slot_toNat c (by omega)]
  have hentry : (classify (parseRx s) s).2.getD k Sock.empty = describe (parseRx s) e := by
    simp [hcl, hk]
  obtain ⟨hoff, hend⟩ := parseRx_data_received hp
  simp only [completed_verdict, sockAt, completed_socks, hslot, hentry]
  exact ⟨hs.table ▸ hk, rfl, hoff, hend⟩

end Sys2Proof.Machine
end

section
/-! SUPPORT. Dispatch and the port table (43_dispatch.md R210 to R221): which test of classification
decides a frame, the transport path that UDP and TCP share, what a delivery leaves in the table, and how
`SOCK_ALLOC` and `SOCK_CLEAR` end. -/

namespace Sys2Proof.Machine

open Sys2Proof

/-! ## Classification, test by test -/

section
variable {p : ParseRecord} {s : State}

/-- A frame that is not on the data channel (43_dispatch.md R211). -/
theorem classify_of_chan (hchan : s.rxChan ≠ s.params.dataChan) :
    classify p s = (noSlot .drop .chan, s.socks) := if_pos hchan

/-- A frame that is not IPv4 is no drop (43_dispatch.md R212). -/
theorem classify_of_notIp (hchan : s.rxChan = s.params.dataChan) (hadm : admission s = .etype) :
    classify p s = (noSlot .notIp .none, s.socks) := by
  simp [classify, hchan, hadm]

/-- Every other failure of admission is a drop with its reason (43_dispatch.md R212). -/
theorem classify_of_rejected (hchan : s.rxChan = s.params.dataChan) {r : Reason}
    (hadm : admission s = r) (hetype : r ≠ .etype) (hnone : r ≠ .none) :
    classify p s = (noSlot .drop r, s.socks) := by
  subst hadm
  simp [classify, hchan, hetype, hnone]

/-- An admitted frame whose IP header sum is asked for and wrong (43_dispatch.md R213). -/
theorem classify_of_ipcsum (hchan : s.rxChan = s.params.dataChan) (hadm : admission s = .none)
    (hsum : s.ctrl.ipcsumEn = true ∧ residualValid (ipResidual s) = false) :
    classify p s = (noSlot .drop .ipcsum, s.socks) := by
  simp [classify, hchan, hadm, hsum]

/-- Every other frame is classified by its protocol (43_dispatch.md R214). -/
theorem classify_of_admitted (hchan : s.rxChan = s.params.dataChan) (hadm : admission s = .none)
    (hsum : ¬ (s.ctrl.ipcsumEn = true ∧ residualValid (ipResidual s) = false)) :
    classify p s = demux p s := by
  rw [classify, if_neg (not_not.2 hchan), hadm, if_neg (by decide), if_neg (by decide),
    if_neg (by decide), if_neg hsum]

theorem demux_of_icmp (hp : recProto p = 1#8) : demux p s = (noSlot .icmp .none, s.socks) := if_pos hp

theorem demux_of_udp (hp : recProto p = 17#8) : demux p s = udpPath p s := by
  rw [demux, hp]; rfl

theorem demux_of_tcp (hp : recProto p = 6#8) : demux p s = tcpPath p s := by
  rw [demux, hp]; rfl

theorem demux_of_unknown (hicmp : recProto p ≠ 1#8) (htcp : recProto p ≠ 6#8)
    (hudp : recProto p ≠ 17#8) : demux p s = (noSlot .drop .proto, s.socks) :=
  (if_neg hicmp).trans ((if_neg hudp).trans (if_neg htcp))

theorem residualValid_eq_false_iff (r : Half) : residualValid r = false ↔ ¬ ValidResidual r := by
  rw [← Bool.not_eq_true, residualValid_iff, ValidResidual]

/-- A frame that reaches the demultiplexer, in the words of R211 to R213. -/
theorem classify_of_reachesDemux (h : ReachesDemux s) : classify p s = demux p s := by
  obtain ⟨hchan, hadm, hsum⟩ := h
  exact classify_of_admitted hchan (admission_of_admitted hadm) fun ⟨hen, hbad⟩ =>
    (residualValid_eq_false_iff _).1 hbad (hsum hen)

/-- An admitted frame holds a whole IPv4 header (42_parse_validate.md R182, R190). -/
theorem Admitted.l3Valid (h : Admitted s) : L3Valid s := ⟨by have := h.long; omega, h.etype⟩

/-- The protocol of the parse record is the one in the frame (42_parse_validate.md R182). -/
theorem recProto_parseRx (h : L3Valid s) : recProto (parseRx s) = bufByte .rx s 23 := by
  obtain ⟨-, -, hw2, -⟩ := parseRx_l3_fields (parseRx_l3_iff.2 h)
  rw [recProto, hw2]
  exact be32_byte1 (bufByte .rx s) 22

theorem ReachesDemux.recProto_eq (h : ReachesDemux s) : recProto (parseRx s) = bufByte .rx s 23 :=
  recProto_parseRx h.admitted.l3Valid

end

/-! ## What DISPATCH leaves -/

/-- The state `DISPATCH` leaves (43_dispatch.md R210). -/
def dispatched (s : State) : State :=
  completed (verdictWord (classify (parseRx s) s).1) (written .dispatch s)

theorem exec_dispatch (s : State) : exec .dispatch s = .next (dispatched s) := rfl

/-- `VERDICT` and the table after `DISPATCH` are the answer of classification (43_dispatch.md R210). -/
theorem dispatched_of_classify {s : State} {v : Verdict} {socks : List Sock}
    (h : classify (parseRx s) s = (v, socks)) :
    (dispatched s).verdict = v ∧ (dispatched s).socks = socks :=
  ⟨congrArg Prod.fst h, congrArg Prod.snd h⟩

/-- A frame that is not delivered: the word in `VERDICT`, and the table as it was. -/
theorem dispatched_of_noSlot {s : State} {c : FrameClass} {r : Reason}
    (h : classify (parseRx s) s = (noSlot c r, s.socks)) :
    readReg (dispatched s) .verdict = verdictWord (noSlot c r) ∧ (dispatched s).socks = s.socks := by
  obtain ⟨hv, hsocks⟩ := dispatched_of_classify h
  exact ⟨congrArg verdictWord hv, hsocks⟩

/-- Settles O43: each clause is one test of classification. -/
theorem dispatchClassifiesBeforeTransport : Obligations.DispatchClassifiesBeforeTransport := fun s =>
  ⟨_, exec_dispatch s,
    fun hchan => dispatched_of_noSlot (classify_of_chan hchan),
    fun hchan hlt => dispatched_of_noSlot
      (classify_of_rejected hchan (admission_of_short hlt) (by decide) (by decide)),
    fun hchan hlen hmac => dispatched_of_noSlot
      (classify_of_rejected hchan (admission_of_mac hlen hmac) (by decide) (by decide)),
    fun hchan hlen hmac htype => dispatched_of_noSlot
      (classify_of_notIp hchan (admission_of_etype hlen hmac htype)),
    fun hchan hlen hmac htype hip => dispatched_of_noSlot
      (classify_of_rejected hchan (admission_of_ipdst hlen hmac htype hip) (by decide) (by decide)),
    fun hchan hlen hmac htype hip htlen => dispatched_of_noSlot
      (classify_of_rejected hchan (admission_of_tlen hlen hmac htype hip htlen)
        (by decide) (by decide)),
    fun hchan hadm hen hbad => dispatched_of_noSlot
      (classify_of_ipcsum hchan (admission_of_admitted hadm)
        ⟨hen, (residualValid_eq_false_iff _).2 hbad⟩),
    fun hreach hicmp => dispatched_of_noSlot
      ((classify_of_reachesDemux hreach).trans (demux_of_icmp (hreach.recProto_eq.trans hicmp))),
    fun hreach hicmp htcp hudp => dispatched_of_noSlot
      ((classify_of_reachesDemux hreach).trans
        (demux_of_unknown (hreach.recProto_eq ▸ hicmp) (hreach.recProto_eq ▸ htcp)
          (hreach.recProto_eq ▸ hudp)))⟩

/-! ## The transport path that UDP and TCP share -/

/-- Delivery to the entry a search of the table finds: the verdict, and the table with the record made
in that entry (43_dispatch.md R215, R216). -/
def deliver (hit miss : FrameClass) (search : List Sock → Option Nat) (record : Sock → Sock)
    (socks : List Sock) : Verdict × List Sock :=
  match search socks with
  | some k => (toSlot hit k, socks.set k (record (socks.getD k Sock.empty)))
  | none => (noSlot miss .none, socks)

/-- The tests before a delivery: the structure, then the checksum when `CTRL` asks for it
(43_dispatch.md R215, R216). -/
def transportPath (structured checked : Bool) (residual : Half)
    (delivery : List Sock → Verdict × List Sock) (socks : List Sock) : Verdict × List Sock :=
  if structured = false then (noSlot .drop .l4hdr, socks)
  else if checked = true ∧ residualValid residual = false then (noSlot .drop .l4csum, socks)
  else delivery socks

/-- Delivery of a UDP datagram (43_dispatch.md R215). -/
def udpDeliver (p : ParseRecord) : List Sock → Verdict × List Sock :=
  deliver .udp .udpNoMatch (List.findIdx? (udpMatches p)) (describe p ∘ recordSender p)

/-- Delivery of a TCP segment (43_dispatch.md R216). -/
def tcpDeliver (p : ParseRecord) : List Sock → Verdict × List Sock :=
  deliver .tcp .tcpNoMatch (tcpHit p) (describe p)

theorem udpPath_eq_transportPath (p : ParseRecord) (s : State) :
    udpPath p s
      = transportPath p.udp s.ctrl.l4csumEn (udpResidual p s) (udpDeliver p) s.socks := rfl

theorem tcpPath_eq_transportPath (p : ParseRecord) (s : State) :
    tcpPath p s
      = transportPath p.tcp s.ctrl.l4csumEn (tcpResidual p s) (tcpDeliver p) s.socks := rfl

/-- The three answers of a transport path, in the words of the rules (43_dispatch.md R215, R216). -/
theorem transportPath_spec {structured checked : Bool} {frame : Prop} {residual r : Half}
    (hst : structured = true ↔ frame) (hres : frame → residual = r)
    (delivery : List Sock → Verdict × List Sock) (socks : List Sock) :
    (¬ frame → transportPath structured checked residual delivery socks
        = (noSlot .drop .l4hdr, socks))
      ∧ (frame → checked = true → ¬ ValidResidual r →
        transportPath structured checked residual delivery socks = (noSlot .drop .l4csum, socks))
      ∧ (frame → (checked = true → ValidResidual r) →
        transportPath structured checked residual delivery socks = delivery socks) := by
  refine ⟨fun hno => if_pos (Bool.eq_false_of_not_eq_true (mt hst.1 hno)), fun h hen hbad => ?_,
    fun h hok => ?_⟩
  · rw [transportPath, hst.2 h, hres h, if_neg (by decide),
      if_pos ⟨hen, (residualValid_eq_false_iff r).2 hbad⟩]
  · rw [transportPath, hst.2 h, hres h, if_neg (by decide),
      if_neg fun ⟨hen, hbad⟩ => (residualValid_eq_false_iff r).1 hbad (hok hen)]

section
variable {hit miss : FrameClass} {search : List Sock → Option Nat} {record : Sock → Sock}
  {socks : List Sock}

theorem deliver_of_some {k : Nat} (h : search socks = some k) :
    deliver hit miss search record socks
      = (toSlot hit k, socks.set k (record (socks.getD k Sock.empty))) := by
  rw [deliver, h]

theorem deliver_of_none (h : search socks = none) :
    deliver hit miss search record socks = (noSlot miss .none, socks) := by
  rw [deliver, h]

end

/-! ## The received frame on a transport path -/

section
variable {s : State}

/-- The sender's MAC in the two words of an entry (10_state.md R37). -/
theorem parseRx_esrc_words (h : L3Valid s) :
    (parseRx s).esrc.extractLsb' 16 32 = be32 (bufByte .rx s) 6
      ∧ (parseRx s).esrc.extractLsb' 0 16 = be16 (bufByte .rx s) 10 := by
  have hlen : 14 ≤ s.rxLen.toNat := le_trans (by decide) h.1
  obtain ⟨-, hsrc, -⟩ := parseRx_l2_fields (parseRx_l2_iff.2 hlen)
  rw [hsrc]
  exact ⟨be48_high _ _, be48_low _ _⟩

/-- The ports of a transport header (10_state.md R35). -/
theorem recPorts_of_ports_eq {p : ParseRecord} {B : Nat → Byte} (h : p.ports = be32 B 34) :
    recSport p = be16 B 34 ∧ recDport p = be16 B 36 := by
  rw [recSport, recDport, h]
  exact ⟨be32_high B 34, be32_low B 34⟩

theorem highHalf_append (x y : Half) : highHalf (x ++ y) = x := BitVec.extractLsb'_append_eq_left

theorem lowHalf_append (x y : Half) : lowHalf (x ++ y) = y := BitVec.extractLsb'_append_eq_right

/-- What a UDP delivery records of the received frame (43_dispatch.md R215). -/
theorem describe_recordSender_parseRx (h : UdpFrame s) (e : Sock) :
    describe (parseRx s) (recordSender (parseRx s) e) = { e with
      rmacHi := be32 (bufByte .rx s) 6
      rmacLo := be16 (bufByte .rx s) 10
      rip := be32 (bufByte .rx s) 26
      rport := be16 (bufByte .rx s) 34
      rxoff := 42#16
      rxlen := BitVec.ofNat 16 ((be16 (bufByte .rx s) 38).toNat - 8)
      rxpend := true } := by
  obtain ⟨hhi, hlo⟩ := parseRx_esrc_words h.1
  obtain ⟨-, -, -, hsip, -⟩ := parseRx_l3_fields (parseRx_l3_iff.2 h.1)
  obtain ⟨hports, -, hdata⟩ := parseRx_udp_fields (parseRx_udp_iff.2 h)
  obtain ⟨hsport, -⟩ := recPorts_of_ports_eq hports
  rw [describe, recordSender, hhi, hlo, hsip, hsport, hdata, highHalf_append, lowHalf_append]

/-- What a TCP delivery records of the received frame (43_dispatch.md R216). -/
theorem describe_parseRx_of_tcp (h : TcpFrame s) (e : Sock) :
    describe (parseRx s) e = { e with
      rxoff := BitVec.ofNat 16 (34 + 4 * frameDoff s)
      rxlen := BitVec.ofNat 16 ((be16 (bufByte .rx s) 16).toNat - 20 - 4 * frameDoff s)
      rxpend := true } := by
  obtain ⟨-, -, -, -, -, hdata⟩ := parseRx_tcp_fields (parseRx_tcp_iff.2 h)
  rw [describe, hdata, highHalf_append, lowHalf_append]

/-! ## The entry a frame matches -/

theorem udpMatches_parseRx_iff (h : UdpFrame s) (e : Sock) :
    udpMatches (parseRx s) e = true ↔ UdpEntry (be16 (bufByte .rx s) 36) e := by
  obtain ⟨hports, -⟩ := parseRx_udp_fields (parseRx_udp_iff.2 h)
  obtain ⟨-, hdport⟩ := recPorts_of_ports_eq hports
  simp only [udpMatches, UdpEntry, hdport, Bool.and_eq_true, decide_eq_true_eq, and_assoc]

theorem tcpBoundMatches_parseRx_iff (h : TcpFrame s) (e : Sock) :
    tcpBoundMatches (parseRx s) e = true ↔
      TcpBound (be16 (bufByte .rx s) 36) (be32 (bufByte .rx s) 26) (be16 (bufByte .rx s) 34) e := by
  obtain ⟨-, -, -, hsip, -⟩ := parseRx_l3_fields (parseRx_l3_iff.2 h.1)
  obtain ⟨hports, -⟩ := parseRx_tcp_fields (parseRx_tcp_iff.2 h)
  obtain ⟨hsport, hdport⟩ := recPorts_of_ports_eq hports
  simp only [tcpBoundMatches, TcpBound, hsip, hsport, hdport, Bool.and_eq_true, decide_eq_true_eq,
    and_assoc]

theorem tcpListenerMatches_parseRx_iff (h : TcpFrame s) (e : Sock) :
    tcpListenerMatches (parseRx s) e = true ↔ TcpListener (be16 (bufByte .rx s) 36) e := by
  obtain ⟨hports, -⟩ := parseRx_tcp_fields (parseRx_tcp_iff.2 h)
  obtain ⟨-, hdport⟩ := recPorts_of_ports_eq hports
  simp only [tcpListenerMatches, TcpListener, hdport, Bool.and_eq_true, Bool.not_eq_true',
    decide_eq_true_eq, and_assoc]

end

section
variable {p : ParseRecord} {socks : List Sock}

/-- A bound entry takes the segment before any listener (43_dispatch.md R216). -/
theorem tcpHit_of_bound {k : Nat} (h : socks.findIdx? (tcpBoundMatches p) = some k) :
    tcpHit p socks = some k := by
  rw [tcpHit, h]

/-- Without a bound entry the listeners are searched (43_dispatch.md R216). -/
theorem tcpHit_of_no_bound (h : socks.findIdx? (tcpBoundMatches p) = none) :
    tcpHit p socks = socks.findIdx? (tcpListenerMatches p) := by
  rw [tcpHit, h]

end

/-- Settles O44: the UDP path over the entries that match the port of the frame. -/
theorem dispatchDeliversUdpToFirstMatch : Obligations.DispatchDeliversUdpToFirstMatch := by
  rintro s _ rfl hreach hproto
  have frame (hu : UdpStructure s) : UdpFrame s := ⟨hreach.admitted.l3Valid, hproto, hu⟩
  have hst : (parseRx s).udp = true ↔ UdpStructure s :=
    parseRx_udp_iff.trans ⟨fun ⟨_, _, hu⟩ => hu, frame⟩
  have hpath : classify (parseRx s) s = udpPath (parseRx s) s :=
    (classify_of_reachesDemux hreach).trans (demux_of_udp (hreach.recProto_eq.trans hproto))
  rw [udpPath_eq_transportPath] at hpath
  obtain ⟨hhdr, hbad, hok⟩ := transportPath_spec (checked := s.ctrl.l4csumEn) hst
    (fun hu => udpResidual_parseRx (frame hu)) (udpDeliver (parseRx s)) s.socks
  refine ⟨_, exec_dispatch s, fun hno => dispatched_of_noSlot (hpath.trans (hhdr hno)),
    fun hu hen hr => dispatched_of_noSlot (hpath.trans (hbad hu hen hr)), fun hu hr => ?_⟩
  have hdeliver := hpath.trans (hok hu hr)
  have hmatch := udpMatches_parseRx_iff (frame hu)
  refine ⟨fun hnone => dispatched_of_noSlot
    (hdeliver.trans (deliver_of_none (findIdx?_of_noEntry hmatch hnone))), fun k hk => ?_⟩
  rw [← describe_recordSender_parseRx (frame hu)]
  exact dispatched_of_classify (hdeliver.trans (deliver_of_some (findIdx?_of_firstAt hmatch hk)))

/-- Settles O45: the TCP path over the bound entries, then over the listeners. -/
theorem dispatchDeliversTcpBoundFirst : Obligations.DispatchDeliversTcpBoundFirst := by
  rintro s _ e rfl he hreach hproto
  have frame (ht : TcpStructure s) : TcpFrame s := ⟨hreach.admitted.l3Valid, hproto, ht⟩
  have hst : (parseRx s).tcp = true ↔ TcpStructure s :=
    parseRx_tcp_iff.trans ⟨fun ⟨_, _, ht⟩ => ht, frame⟩
  have hpath : classify (parseRx s) s = tcpPath (parseRx s) s :=
    (classify_of_reachesDemux hreach).trans (demux_of_tcp (hreach.recProto_eq.trans hproto))
  rw [tcpPath_eq_transportPath] at hpath
  obtain ⟨hhdr, hbad, hok⟩ := transportPath_spec (checked := s.ctrl.l4csumEn) hst
    (fun ht => tcpResidual_parseRx (frame ht)) (tcpDeliver (parseRx s)) s.socks
  refine ⟨_, exec_dispatch s, fun hno => dispatched_of_noSlot (hpath.trans (hhdr hno)),
    fun ht hen hr => dispatched_of_noSlot (hpath.trans (hbad ht hen hr)), fun ht hr => ?_⟩
  have hdeliver := hpath.trans (hok ht hr)
  have hbound := tcpBoundMatches_parseRx_iff (frame ht)
  have hlisten := tcpListenerMatches_parseRx_iff (frame ht)
  obtain rfl : e = describe (parseRx s) :=
    funext fun x => (he x).trans (describe_parseRx_of_tcp (frame ht) x).symm
  refine ⟨fun k hk => ?_, fun hnone => ?_⟩
  · have hhit := tcpHit_of_bound (findIdx?_of_firstAt hbound hk)
    exact dispatched_of_classify (hdeliver.trans (deliver_of_some hhit))
  · have hhit := tcpHit_of_no_bound (findIdx?_of_noEntry hbound hnone)
    exact ⟨fun k hk => dispatched_of_classify
        (hdeliver.trans (deliver_of_some (hhit.trans (findIdx?_of_firstAt hlisten hk)))),
      fun hno => dispatched_of_noSlot
        (hdeliver.trans (deliver_of_none (hhit.trans (findIdx?_of_noEntry hlisten hno))))⟩

/-! ## A second DISPATCH -/

/-- A second run over the table that the first one left gives the same answer. -/
def Repeats (F : List Sock → Verdict × List Sock) : Prop := ∀ l, F (F l).2 = F l

theorem Repeats.congr {F G : List Sock → Verdict × List Sock} (hG : Repeats G) (h : ∀ l, F l = G l) :
    Repeats F := by
  rwa [funext h]

/-- An answer that leaves the table as it was. -/
theorem repeats_keep (v : Verdict) : Repeats fun l => (v, l) := fun _ => rfl

/-- A record that a test cannot see changes no search by that test. -/
theorem findIdx?_set_record {f : Sock → Bool} {record : Sock → Sock} (h : ∀ e, f (record e) = f e)
    (l : List Sock) (k : Nat) :
    (l.set k (record (l.getD k Sock.empty))).findIdx? f = l.findIdx? f := by
  by_cases hk : k < l.length
  · have hmap : (l.set k (record (l.getD k Sock.empty))).map f = l.map f := by
      rw [List.map_set, h, List.getD_eq_getElem _ _ hk, ← List.getElem_map f (h := by simpa)]
      exact List.set_getElem_self _
    rw [← Function.id_comp f, ← List.findIdx?_map, hmap, List.findIdx?_map]
  · rw [List.set_eq_of_length_le (Nat.le_of_not_lt hk)]

/-- A delivery is repeated when its record does not hide the entry from the search and a second record
changes nothing. -/
theorem repeats_deliver {hit miss : FrameClass} {search : List Sock → Option Nat}
    {record : Sock → Sock}
    (hsearch : ∀ l k, search (l.set k (record (l.getD k Sock.empty))) = search l)
    (hrecord : ∀ e, record (record e) = record e) :
    Repeats (deliver hit miss search record) := by
  intro l
  cases hl : search l with
  | none => rw [deliver_of_none hl, deliver_of_none hl]
  | some k =>
    rw [deliver_of_some hl, deliver_of_some ((hsearch l k).trans hl)]
    by_cases hk : k < l.length
    · simp [hk, hrecord]
    · simp [List.set_eq_of_length_le (Nat.le_of_not_lt hk)]

/-- A match reads nothing that a delivery writes (43_dispatch.md R215). -/
theorem repeats_udpDeliver (p : ParseRecord) : Repeats (udpDeliver p) :=
  repeats_deliver (findIdx?_set_record (record := describe p ∘ recordSender p) fun _ => rfl) fun _ => rfl

/-- A match reads nothing that a delivery writes (43_dispatch.md R216). -/
theorem repeats_tcpDeliver (p : ParseRecord) : Repeats (tcpDeliver p) := by
  refine repeats_deliver (fun l k => ?_) fun _ => rfl
  have hbound := findIdx?_set_record (f := tcpBoundMatches p) (record := describe p) (fun _ => rfl) l k
  have hlisten :=
    findIdx?_set_record (f := tcpListenerMatches p) (record := describe p) (fun _ => rfl) l k
  rw [tcpHit, hbound, hlisten, tcpHit]

theorem repeats_transportPath (structured checked : Bool) (residual : Half)
    {delivery : List Sock → Verdict × List Sock} (h : Repeats delivery) :
    Repeats (transportPath structured checked residual delivery) := by
  unfold transportPath
  split_ifs
  · exact repeats_keep _
  · exact repeats_keep _
  · exact h

/-- The demultiplexer as a function of the table (43_dispatch.md R214). -/
theorem repeats_demux (p : ParseRecord) (s : State) :
    Repeats fun l => demux p { s with socks := l } := by
  by_cases hicmp : recProto p = 1#8
  · exact (repeats_keep _).congr fun _ => demux_of_icmp hicmp
  by_cases hudp : recProto p = 17#8
  · exact (repeats_transportPath p.udp s.ctrl.l4csumEn (udpResidual p s)
      (repeats_udpDeliver p)).congr fun _ => demux_of_udp hudp
  by_cases htcp : recProto p = 6#8
  · exact (repeats_transportPath p.tcp s.ctrl.l4csumEn (tcpResidual p s)
      (repeats_tcpDeliver p)).congr fun _ => demux_of_tcp htcp
  · exact (repeats_keep _).congr fun _ => demux_of_unknown hicmp htcp hudp

/-- Classification as a function of the table: no test before the transport paths reads it
(43_dispatch.md R211 to R214). -/
theorem repeats_classify (p : ParseRecord) (s : State) :
    Repeats fun l => classify p { s with socks := l } := by
  by_cases hchan : s.rxChan = s.params.dataChan
  swap
  · exact (repeats_keep _).congr fun _ => classify_of_chan hchan
  by_cases hetype : admission s = .etype
  · exact (repeats_keep _).congr fun _ => classify_of_notIp hchan hetype
  by_cases hnone : admission s = .none
  swap
  · exact (repeats_keep (noSlot .drop (admission s))).congr fun l =>
      classify_of_rejected (s := { s with socks := l }) hchan rfl hetype hnone
  by_cases hsum : s.ctrl.ipcsumEn = true ∧ residualValid (ipResidual s) = false
  · exact (repeats_keep _).congr fun _ => classify_of_ipcsum hchan hnone hsum
  · exact (repeats_demux p s).congr fun _ => classify_of_admitted hchan hnone hsum

/-- Of what `DISPATCH` writes, classification reads the table alone (43_dispatch.md R210). -/
theorem classify_dispatched (s : State) :
    classify (parseRx (dispatched s)) (dispatched s) = classify (parseRx s) s :=
  repeats_classify (parseRx s) s s.socks

/-- Settles O46: the second classification repeats the first, and the frame is parsed as before. -/
theorem dispatchTwiceIsDispatchOnce : Obligations.DispatchTwiceIsDispatchOnce := by
  refine fun s => ⟨_, exec_dispatch s, ?_⟩
  rw [exec_dispatch, dispatched, written, classify_dispatched]
  rfl

/-! ## SOCK_ALLOC -/

/-- Bit 16 of a word under its mask (30_encoding.md R96). -/
theorem and_bit16 (v : Word) : v &&& 0x10000#32 = if v.getLsbD 16 then 0x10000#32 else 0#32 :=
  BitVec.and_twoPow v 16

/-- `KIND` of `SOCK_ALLOC` is bit 16 of `A0` (30_encoding.md R96). -/
theorem allocKind_eq (s : State) :
    allocKind s = if s.a0 &&& 0x10000#32 = 0#32 then .datagram else .stream := by
  rw [allocKind, and_bit16]
  cases s.a0.getLsbD 16 <;> rfl

section
variable {s : State}

theorem execSockAlloc_of_port_zero (hport : allocPort s = 0#16) :
    execSockAlloc s = raiseError .arg s := if_pos hport

theorem execSockAlloc_of_unused (hport : allocPort s ≠ 0#16) {k : Nat}
    (h : s.socks.findIdx? sockUnused = some k) :
    execSockAlloc s = complete (BitVec.ofNat 32 k) (setSock k (allocEntry s) s) := by
  rw [execSockAlloc, if_neg hport, h]

theorem execSockAlloc_of_full (hport : allocPort s ≠ 0#16)
    (h : s.socks.findIdx? sockUnused = none) :
    execSockAlloc s = complete 0xFFFFFFFF#32 s := by
  rw [execSockAlloc, if_neg hport, h]

end

theorem sockUnused_iff (e : Sock) : sockUnused e = true ↔ e.lport = 0#16 := decide_eq_true_iff

/-- Settles O48: the three ends of `SOCK_ALLOC`, by its port and the search for an unused entry. -/
theorem sockAllocTakesTheFirstUnused : Obligations.SockAllocTakesTheFirstUnused := by
  refine ⟨rowWords_of_no_fields (op := .sockAlloc) rfl rfl rfl, fun s =>
    ⟨execSockAlloc_of_port_zero, fun hport hfull =>
      execSockAlloc_of_full hport (findIdx?_of_noEntry sockUnused_iff hfull),
      fun hport k hk => ?_⟩⟩
  rw [← allocKind_eq]
  exact execSockAlloc_of_unused hport (findIdx?_of_firstAt sockUnused_iff hk)

/-! ## SOCK_CLEAR -/

/-- Bit 9 of a word under its mask (30_encoding.md R91). -/
theorem and_bit9 (v : Word) : v &&& 0x200#32 = if v.getLsbD 9 then 0x200#32 else 0#32 :=
  BitVec.and_twoPow v 9

/-- `MODE` selects the clear mode by bit 9 of the word (30_encoding.md R91). -/
theorem clearModeOf_modeField (w : Word) :
    clearModeOf (modeField w) = if w &&& 0x200#32 = 0#32 then .template else .free := by
  have hb : modeField w = BitVec.ofBool (w.getLsbD 9) := by
    ext i hi
    simp [modeField, show i = 0 by omega]
  rw [clearModeOf, hb, and_bit9]
  cases w.getLsbD 9 <;> rfl

/-- `SLOT` as a number is bits 12 to 10 of the word (30_encoding.md R91). -/
theorem slotField_toNat (w : Word) : (slotField w).toNat = ((w >>> 10) &&& 7#32).toNat := by
  have hmask : (w >>> 10) &&& 7#32 = ((w >>> 10).setWidth 3).setWidth 32 := and_lowMask (w >>> 10) 3
  rw [hmask, BitVec.toNat_setWidth_of_le (by decide), slotField, BitVec.extractLsb'_toNat,
    BitVec.toNat_setWidth, BitVec.toNat_ushiftRight]

theorem buildInstr_sockClear (w : Word) :
    buildInstr .sockClear w = .sockClear ((w >>> 10) &&& 7#32).toNat
      (if w &&& 0x200#32 = 0#32 then .template else .free) := by
  rw [buildInstr, slotField_toNat, clearModeOf_modeField]

section
variable {s : State} {k : Nat}

theorem execSockClear_of_lt (m : ClearMode) (hk : k < s.params.nsock) :
    execSockClear k m s
      = complete (BitVec.ofNat 32 k) (setSock k (clearedEntry m (sockAt s k)) s) := if_pos hk

theorem execSockClear_of_le (m : ClearMode) (hk : s.params.nsock ≤ k) :
    execSockClear k m s = raiseError .slot s := if_neg (Nat.not_lt.2 hk)

end

/-- Settles O49: the words are those of the row of `SOCK_CLEAR`, and the ends are those of its test of
the slot. -/
theorem sockClearKeepsOnlyTheTemplate : Obligations.SockClearKeepsOnlyTheTemplate := by
  refine ⟨?_, fun s k => ⟨execSockClear_of_lt .template, execSockClear_of_lt .free,
    fun hk m => execSockClear_of_le m hk⟩⟩
  rw [← funext buildInstr_sockClear]
  exact rowWords_of_mem_specRows (r := ⟨.sockClear, 0x31#32, 0x00000031#32, 0xFFFFE1FF#32⟩)
    (by decide)

end Sys2Proof.Machine
end

section
/-! SUPPORT. Command errors (60_exceptions.md R240 to R242, R249, R252): the code each command ends
with, the decoder's two errors as causes of the word, and the first cause in the order of R242. -/

namespace Sys2Proof.Machine

open Sys2Proof

/-! ## How a command ends, by its own tests -/

/-- The code a command ends with: its tests of the arguments, each bound as its rule states it
(41_construct.md R151 to R154, 40_checksum.md R134, 43_dispatch.md R220, R221). -/
def commandError (i : Instr) (s : State) : ErrCode :=
  match i with
  | .nop | .parse | .ipCheck | .udpVerify | .tcpVerify | .dispatch => .ok
  | .ethAdd off => if s.params.bufBytes < off + 14 then .range else .ok
  | .ipAdd off =>
    if 65535 < 20 + ipDlen s then .length
    else if s.params.bufBytes < off + 20 then .range else .ok
  | .udpAdd off =>
    if 65535 < 8 + udpDlen s then .length
    else if s.params.bufBytes < off + 8 + udpDlen s then .range else .ok
  | .tcpAdd off =>
    if 65535 < tcpHeaderLen s + tcpDlen s then .length
    else if s.params.bufBytes < off + tcpHeaderLen s + tcpDlen s then .range else .ok
  | .csum off _ => if s.params.bufBytes < off + csumLen s then .range else .ok
  | .sockAlloc => if lowHalf s.a0 = 0#16 then .arg else .ok
  | .sockClear slot _ => if s.params.nsock ≤ slot then .slot else .ok

/-- A command ends with a code: in the error state for an error, over what it writes for success
(10_state.md R24, R25, 60_exceptions.md R240). -/
structure EndsWith (c : ErrCode) (i : Instr) (s : State) : Prop where
  error : c ≠ .ok → exec i s = .next (failed c s)
  success : c = .ok → ∃ v, exec i s = .next (completed v (written i s))

section
variable {i : Instr} {s : State}

theorem EndsWith.of_raiseError {c : ErrCode} (hc : c ≠ .ok) (h : exec i s = raiseError c s) :
    EndsWith c i s :=
  ⟨fun _ => h, fun hok => absurd hok hc⟩

theorem EndsWith.of_complete {v : Word} (h : exec i s = complete v (written i s)) :
    EndsWith .ok i s :=
  ⟨fun hne => absurd rfl hne, fun _ => ⟨v, h⟩⟩

end

/-- Every command ends with the code that its tests give. -/
theorem exec_endsWith (i : Instr) (s : State) : EndsWith (commandError i s) i s := by
  cases i with
  | nop | parse | ipCheck | udpVerify | tcpVerify | dispatch => exact .of_complete rfl
  | ethAdd off =>
    rw [commandError]
    split_ifs with hpast
    · exact .of_raiseError (by decide) (execEthAdd_of_past hpast)
    · exact .of_complete (execEthAdd_of_fits (by omega))
  | ipAdd off =>
    rw [commandError]
    split_ifs with hlong hpast
    · exact .of_raiseError (by decide) (execIpAdd_of_long hlong)
    · exact .of_raiseError (by decide) (execIpAdd_of_past (by omega) hpast)
    · exact .of_complete (execIpAdd_of_fits (by omega) (by omega))
  | udpAdd off =>
    rw [commandError]
    split_ifs with hlong hpast
    · exact .of_raiseError (by decide) (execUdpAdd_of_long hlong)
    · exact .of_raiseError (by decide) (execUdpAdd_of_past (by omega) hpast)
    · exact .of_complete (execUdpAdd_of_fits (by omega) (by omega))
  | tcpAdd off =>
    rw [commandError]
    split_ifs with hlong hpast
    · exact .of_raiseError (by decide) (execTcpAdd_of_long hlong)
    · exact .of_raiseError (by decide) (execTcpAdd_of_past (by omega) hpast)
    · exact .of_complete (execTcpAdd_of_fits (by omega) (by omega))
  | csum off buf =>
    rw [commandError]
    split_ifs with hpast
    · exact .of_raiseError (by decide) (execCsum_of_past buf hpast)
    · exact .of_complete (execCsum_of_fits buf (by omega))
  | sockAlloc =>
    rw [commandError]
    split_ifs with hport
    · exact .of_raiseError (by decide) (execSockAlloc_of_port_zero hport)
    · cases hfind : s.socks.findIdx? sockUnused with
      | some k =>
        have hw : written .sockAlloc s = setSock k (allocEntry s) s := by
          simp only [written, allocated, hfind, setSock]
        exact .of_complete ((execSockAlloc_of_unused hport hfind).trans (by rw [hw]))
      | none =>
        have hw : written .sockAlloc s = s := by simp only [written, allocated, hfind]
        exact .of_complete ((execSockAlloc_of_full hport hfind).trans (by rw [hw]))
  | sockClear slot mode =>
    rw [commandError]
    split_ifs with hslot
    · exact .of_raiseError (by decide) (execSockClear_of_le mode hslot)
    · exact .of_complete (execSockClear_of_lt mode (by omega))

/-- No command writes `STATUS` before it ends (10_state.md R24). -/
@[simp] theorem written_status (i : Instr) (s : State) : (written i s).status = s.status := by
  obtain ⟨_, _, _, _, _, h⟩ := written_frame i s
  rw [h]

/-- A command whose tests find nothing leaves the status of a success (10_state.md R24). -/
theorem exec_okStatus_of_commandError {i : Instr} {s : State} (h : commandError i s = .ok) :
    ∃ t, exec i s = .next t ∧ t.status = okStatus s := by
  obtain ⟨v, hv⟩ := (exec_endsWith i s).success h
  exact ⟨_, hv, by rw [completed_status, written_status, okStatus]⟩

/-! ## The two causes that lie in the word -/

section
variable {w : Word}

/-- `E_ILLEGAL` applies exactly when the decoder says so (30_encoding.md R90, R94). -/
theorem errorApplies_illegal_iff (s : State) :
    errorApplies s w .illegal = true ↔ decode w = .error .illegal := by
  rw [errorApplies, Bool.not_eq_true']
  refine ⟨decode_of_no_opcode, fun h => Bool.eq_false_iff.2 fun hany => ?_⟩
  obtain ⟨r, hr, hop⟩ := List.any_eq_true.1 hany
  rw [decode_of_opcodeField ((regular_of_mem_specRows r hr).hasOpcode_iff.1 hop)] at h
  split_ifs at h
  cases h

/-- `E_RESERVED` applies exactly when the decoder says so (30_encoding.md R90, R92). -/
theorem errorApplies_reserved_iff (s : State) :
    errorApplies s w .reserved = true ↔ decode w = .error .reserved := by
  simp only [errorApplies, List.any_eq_true, Bool.and_eq_true, Bool.not_eq_true']
  constructor
  · rintro ⟨r, hr, hop, hits⟩
    have hreg := regular_of_mem_specRows r hr
    have hcode := hreg.hasOpcode_iff.1 hop
    exact decode_of_unused_field hcode fun hz =>
      Bool.eq_false_iff.1 hits (hreg.hits_iff.2 ⟨hcode, hz⟩)
  · intro h
    by_cases hany : specRows.any (fun r => r.hasOpcode w) = true
    · obtain ⟨r, hr, hop⟩ := List.any_eq_true.1 hany
      refine ⟨r, hr, hop, Bool.eq_false_iff.2 fun hits => ?_⟩
      obtain ⟨i, hi, _⟩ := (regular_of_mem_specRows r hr).hits_iff_decode.1 hits
      cases hi.symm.trans h
    · cases (decode_of_no_opcode (Bool.eq_false_iff.2 hany)).symm.trans h

/-! ## The first cause -/

/-- The first cause that applies, in the order of 60_exceptions.md R242, or none. -/
def firstCause (s : State) (w : Word) : ErrCode := (errorOrder.find? (errorApplies s w)).getD .ok

/-- A word that is no command has its decoding error for the first cause (30_encoding.md R90). -/
theorem firstCause_of_error (s : State) {e : DecodeError} (h : decode w = .error e) :
    firstCause s w = decodeErrorCode e := by
  cases e with
  | illegal =>
    simp [firstCause, errorOrder, (errorApplies_illegal_iff s).2 h, decodeErrorCode]
  | reserved =>
    have hlegal : ¬ errorApplies s w .illegal = true := by
      rw [errorApplies_illegal_iff, h]
      decide
    simp [firstCause, errorOrder, hlegal, (errorApplies_reserved_iff s).2 h, decodeErrorCode]

/-- The causes of a word that is a command, tested one after another (60_exceptions.md R242). -/
theorem firstCause_of_command (s : State) {i : Instr} (h : decode w = .ok i) :
    firstCause s w =
      if errorApplies s w .arg then .arg
      else if errorApplies s w .slot then .slot
      else if errorApplies s w .length then .length
      else if errorApplies s w .range then .range
      else .ok := by
  have hlegal : ¬ errorApplies s w .illegal = true := by simp [errorApplies_illegal_iff, h]
  have hfields : ¬ errorApplies s w .reserved = true := by simp [errorApplies_reserved_iff, h]
  rw [firstCause, errorOrder, List.find?_cons_of_neg hlegal, List.find?_cons_of_neg hfields]
  simp only [List.find?_cons, List.find?_nil]
  split_ifs <;> simp [*]

/-- The first cause of a word that is a command is the code of the command's own tests: each cause
names the opcodes that have it, so the others do not apply (60_exceptions.md R241). -/
theorem firstCause_of_ok (s : State) {i : Instr} (h : decode w = .ok i) :
    firstCause s w = commandError i s := by
  rw [firstCause_of_command s h]
  obtain ⟨op, hop, _, rfl⟩ := (decode_eq_ok_iff w i).1 h
  have hcode : w &&& 0xFF#32 = (opcodeCode op).setWidth 32 := by rw [and_255_eq_opcodeField, hop]
  have hoff : (offField w).toNat = wordOff w := offField_toNat w
  cases op with
  | nop | parse | ipCheck | udpVerify | tcpVerify | dispatch | sockAlloc =>
    simp [errorApplies, hcode, opcodeCode, buildInstr, commandError]
  | ethAdd | ipAdd | udpAdd | tcpAdd | csum =>
    simp [errorApplies, hcode, opcodeCode, buildInstr, commandError, hoff]
  | sockClear => simp [errorApplies, hcode, opcodeCode, buildInstr, commandError, slotField_toNat]

end

/-! ## Every word ends with its first cause -/

/-- A word whose first cause is an error ends in the error state (60_exceptions.md R240, R242). -/
theorem issueCommand_of_firstCause_ne_ok {w : Word} {s : State} (hne : firstCause s w ≠ .ok) :
    issueCommand w s = .next (errorState (firstCause s w) w s) := by
  cases h : decode w with
  | error e => rw [firstCause_of_error s h, issueCommand_of_error h]
  | ok i =>
    rw [firstCause_of_ok s h] at hne ⊢
    rw [issueCommand_of_ok h]
    exact (exec_endsWith i { s with cmd := w }).error hne

/-- A word to which no cause applies succeeds (10_state.md R24). -/
theorem issueCommand_of_firstCause_eq_ok {w : Word} {s : State} (hok : firstCause s w = .ok) :
    ∃ t, issueCommand w s = .next t ∧ t.status = okStatus s := by
  cases h : decode w with
  | error e =>
    rw [firstCause_of_error s h] at hok
    cases e <;> cases hok
  | ok i =>
    rw [firstCause_of_ok s h] at hok
    rw [issueCommand_of_ok h]
    exact exec_okStatus_of_commandError (s := { s with cmd := w }) hok

/-- `STATUS` bits 7:0 are the number of the code (10_state.md R24, 60_exceptions.md R241). -/
theorem statusWord_and_255 (st : Status) : statusWord st &&& 0xFF#32 = codeNumber st.errcode := by
  have hfield : opcodeField (statusWord st) = errCodeBits st.errcode :=
    BitVec.extractLsb'_append_eq_right
  rw [and_255_eq_opcodeField, hfield]
  cases st.errcode <;> rfl

/-- Settles O50: the code of the end a word comes to is its first cause. -/
theorem reportedErrorIsTheFirstCause : Obligations.ReportedErrorIsTheFirstCause := by
  intro s w
  have hreport : ∃ t, issueCommand w s = .next t ∧ t.status.errcode = firstCause s w := by
    by_cases h : firstCause s w = .ok
    · obtain ⟨t, ht, hst⟩ := issueCommand_of_firstCause_eq_ok h
      exact ⟨t, ht, by rw [hst, h, okStatus]⟩
    · exact ⟨_, issueCommand_of_firstCause_ne_ok h, rfl⟩
  obtain ⟨t, ht, hcode⟩ := hreport
  exact ⟨t, ht, hcode, (statusWord_and_255 t.status).trans (congrArg codeNumber hcode)⟩

/-- Settles O51: the two ends of a word exclude each other by their code. -/
theorem errorsArePrecise : Obligations.ErrorsArePrecise := by
  intro s w
  by_cases h : firstCause s w = .ok
  · obtain ⟨t, ht, hst⟩ := issueCommand_of_firstCause_eq_ok h
    rw [okStatus] at hst
    exact ⟨t, ht, fun hne => absurd (by rw [hst]) hne, fun _ => by rw [hst]⟩
  · exact ⟨_, issueCommand_of_firstCause_ne_ok h, fun _ => rfl, fun hok => absurd hok h⟩

/-! ## A second host -/

/-- Settles O12: the oldest pending event is the second host's access, and it has no other answer. -/
theorem secondHostIsRefused : Obligations.SecondHostIsRefused := by
  intro s a rest h
  simp only [step, runPending, h, performEvent]

/-! ## Protocol outcomes -/

/-- Settles O53: the receive-side commands test no argument, and a full table is one of the two
successes of `SOCK_ALLOC`. -/
theorem protocolOutcomesAreNotErrors : Obligations.ProtocolOutcomesAreNotErrors := by
  refine ⟨fun i hi s => exec_okStatus_of_commandError ?_, fun s hport hfull => ?_⟩
  · simp only [List.mem_cons, List.not_mem_nil, or_false] at hi
    rcases hi with rfl | rfl | rfl | rfl | rfl <;> rfl
  · obtain ⟨_, hends⟩ := sockAllocTakesTheFirstUnused
    obtain ⟨_, hnoSlot, _⟩ := hends s
    exact ⟨_, hnoSlot hport hfull, rfl, rfl, rfl⟩

end Sys2Proof.Machine
end

section
/-! SUPPORT. Reset and idle (70_reset_and_hazards.md R270 to R272): what a step does without an event
and with a platform reset pending, and what each part of the state reads after a reset. -/

namespace Sys2Proof.Machine

open Sys2Proof

/-! ## A step without an event, and one with a platform reset pending -/

/-- Settles O6: a step is the oldest pending event, and there is none. -/
theorem idleStepChangesNothing : Obligations.IdleStepChangesNothing := by
  intro s h
  simp only [step, runPending, h]

/-- A step that takes a platform reset (70_reset_and_hazards.md R270). -/
theorem step_reset {s : State} {rest : List Event} (h : s.pending = .reset :: rest) :
    step s = .next (platformReset { s with pending := rest }) := by
  simp only [step, runPending, h, performEvent]

/-! ## What is read after a reset -/

/-- The reset value of each register (70_reset_and_hazards.md R270). -/
def resetValue : Reg → Word
  | .verdict => 0x0000FF00#32
  | .ipTtl => 0x40#32
  | .tcpMss => 0x05B4#32
  | _ => 0#32

theorem readPr_empty (p : PrReg) : readPr ParseRecord.empty p = 0#32 := by
  cases p <;> rfl

theorem readSock_empty (w : SockWord) : readSock Sock.empty w = 0#32 := by
  cases w <;> rfl

/-- Every entry is unused after a reset, inside the table and past its end (10_state.md R37). -/
theorem sockAt_resetWith (p : Params) (epoch k : Nat) :
    sockAt (State.resetWith p epoch) k = Sock.empty := by
  unfold sockAt State.resetWith
  by_cases hk : k < p.nsock
  · exact List.getD_replicate _ hk
  · exact List.getD_eq_default _ _ (by rw [List.length_replicate]; omega)

/-- A reset gives every register its reset value (70_reset_and_hazards.md R270). -/
theorem readReg_resetWith (p : Params) (epoch : Nat) (r : Reg) :
    readReg (State.resetWith p epoch) r = resetValue r := by
  cases r with
  | pr q => exact readPr_empty q
  | sock k w => exact (congrArg (readSock · w) (sockAt_resetWith p epoch k)).trans (readSock_empty w)
  | status => exact (by decide : statusWord { errcode := .ok, sticky := false } = 0#32)
  | verdict =>
    exact (by decide : verdictWord { cls := .none, slot := 0xFF#8, reason := .none } = 0x0000FF00#32)
  | ctrl => exact (by decide : ctrlWord { l4csumEn := false, ipcsumEn := false } = 0#32)
  | _ => rfl

/-- A platform reset gives every register its reset value: what it keeps of the host is no register
(70_reset_and_hazards.md R270). -/
theorem readReg_platformReset (s : State) (r : Reg) :
    readReg (platformReset s) r = resetValue r :=
  (readReg_of_host_fields _ _ _ r).trans (readReg_resetWith s.params (s.epoch + 1) r)

/-- No byte is written after a platform reset, so each holds the free value of the new epoch
(70_reset_and_hazards.md R271). -/
theorem bufByte_platformReset (b : Buf) (s : State) (a : Nat) :
    bufByte b (platformReset s) a = Config.resetByte (s.epoch + 1) b a := by
  have hmem : bufMem b (platformReset s) = Memory.empty := by cases b <;> rfl
  rw [bufByte, hmem, Memory.get?_empty]
  rfl

/-- Settles O7: the registers by their reset values, the rest by what a reset writes and keeps. -/
theorem platformResetRestoresRegisters : Obligations.PlatformResetRestoresRegisters := by
  intro s rest h
  have hreg := readReg_platformReset { s with pending := rest }
  have hzero : ∀ r ∈ [Reg.cmd, .status, .result, .ctrl, .a0, .a1, .a2, .a3, .a4, .a5, .macHi, .macLo,
      .ipAddr, .ipIdent, .rxLen, .rxChan], resetValue r = 0#32 := by decide
  exact ⟨_, step_reset h, fun r hr => (hreg r).trans (hzero r hr), hreg .verdict, hreg .ipTtl,
    hreg .tcpMss, fun p => hreg (.pr p), fun k w => hreg (.sock k w), List.length_replicate,
    fun b a => bufByte_platformReset b _ a, rfl, rfl⟩

end Sys2Proof.Machine
end
